-- ==== Sys2Proof/Word.lean ====
section
/-! DEFINITION. Word.lean: the byte, the one width every access of the block has (R6, R45). -/

namespace Sys2Proof

/-- A byte: 8 bits, bit 0 the least significant (R6). -/
abbrev Byte := BitVec 8

end Sys2Proof
end

