-- ==== Sys2Proof/Config.lean ====
section
/-! DEFINITION. Config.lean: the configuration record of R4, the parameters no rule reads, and the one source of free
values. -/

namespace Sys2Proof

/-- The line strategy, a "configuration-time tagged variant" (R4, R155). -/
inductive Strat where
  | buf   -- buffered, overlapped (R127)
  | dir   -- direct (R130)
deriving DecidableEq, Repr

/-- The configuration record CFG (R4, widths by D3). CFG.TXRATE is `Config.txRate`: no rule reads it. -/
structure Cfg where
  width  : BitVec 16
  height : BitVec 16
  pixfmt : BitVec 8
  strat  : Strat
deriving DecidableEq, Repr

/-- All configuration inputs low: `cfg_strat = 0` is BUF (R5). Log 8. -/
def Cfg.low : Cfg := { width := 0, height := 0, pixfmt := 0, strat := .buf }

/-- DLEN_MAX, the largest legal debug-text length (R4, R108). -/
def debugTextMax : Nat := 254

/-- The free values: the byte that `draws = n` stands for. It has no body, so nothing can be proved of its value. It is
what TMP and TXD hold after the RESET operation (R34 "unspecified", U6). Log 6. -/
opaque Config.freeByte : Nat → Byte

/-- CFG.TXRATE, the transmit rate of the link: "not used by any rule" (R4). Log 22. -/
opaque Config.txRate : Nat

/-- TICK_INTERVAL: OPEN, "no rule depends on it" (R4, R168). Log 22. -/
opaque Config.tickInterval : Nat

end Sys2Proof
end

