-- ==== Sys2Proof/Syntax.lean ====
section
/-! DEFINITION. Syntax.lean: the operations of the block, one constructor per row of spec/opcode_table.json, the events
of the agents, and the names that the three selectors of 30_encoding.md choose among. -/

namespace Sys2Proof

/-- The operations, in the order of the opcode table. -/
inductive Instr where
  /-- FMT_HIGH b (R80). -/
  | fmtHigh (b : Byte)
  /-- FMT_LOW b (R81). -/
  | fmtLow (b : Byte)
  /-- TX_READY (R90). -/
  | txReady
  /-- TX_SEND b (R91). -/
  | txSend (b : Byte)
  /-- TX_TRY b (R92). -/
  | txTry (b : Byte)
  /-- LINK_DONE (R94). -/
  | linkDone
  /-- CKS_RESET (R100). -/
  | cksReset
  /-- CKS_ACC b (R101). -/
  | cksAcc (b : Byte)
  /-- CMD.BYTE (R102). -/
  | cmdByte
  /-- CMD_NEWFRAME (R104): the frame-start command whose wire fields are these (R62, R63). Log 18. -/
  | cmdNewframe (w h : BitVec 10) (f : BitVec 4)
  /-- CMD_DEBUG text (R106). -/
  | cmdDebug (text : List Byte)
  /-- LINE_START (R116). -/
  | lineStart
  /-- PAD_PRE (R117). -/
  | padPre
  /-- EDGE.CAPTURE r (R118). -/
  | edgeCapture (r : Byte)
  /-- EDGE.FORMAT (R119). -/
  | edgeFormat
  /-- EDGE.SEND (R120). -/
  | edgeSend
  /-- EDGE.SKIP (R121). -/
  | edgeSkip
  /-- EDGE.END (R122). -/
  | edgeEnd
  /-- PAD_POST (R123). -/
  | padPost
  /-- DRAIN.FORMAT (R124). -/
  | drainFormat
  /-- DRAIN.SEND (R125). -/
  | drainSend
  /-- LINE_END (R126). -/
  | lineEnd
  /-- LINE_BUF (R127). -/
  | lineBuf
  /-- DIR.READ r (R128). -/
  | dirRead (r : Byte)
  /-- DIR.SEND (R129). -/
  | dirSend
  /-- LINE_DIR (R130). -/
  | lineDir
  /-- REQ.FRAME (R141). -/
  | reqFrame
  /-- FRAME.ACCEPT (R142). -/
  | frameAccept
  /-- REQ.DEBUG text (R143). -/
  | reqDebug (text : List Byte)
  /-- DEBUG.ACCEPT n (R144). -/
  | debugAccept (n : BitVec 16)
  /-- DEBUG.EMPTY (R145). -/
  | debugEmpty
  /-- TICK (R146). -/
  | tick
  /-- TICK.ACCEPT (R147). -/
  | tickAccept
  /-- FRAME (R149). -/
  | frame
  /-- RESET (R180). -/
  | reset
deriving DecidableEq, Repr

/-- The steps of the agents as the environment schedules them (R7, R156; the lines of R76's scripts). -/
inductive Event where
  /-- SEQ: one enabled step of the sequencer. -/
  | seq
  /-- SENSOR: a pixel-clock edge that presents the raw byte `r`. -/
  | edge (r : Byte)
  /-- SENSOR: the padding primitive has returned. -/
  | padDone
  /-- LINK: the in-flight byte has left. -/
  | linkDone
  /-- HOST: the main loop asks for a frame. -/
  | reqFrame
  /-- HOST: the main loop asks for a debug-text command. -/
  | reqDebug (text : List Byte)
  /-- TICK: the periodic trigger fires. -/
  | tick
  /-- The reset event (R180). -/
  | reset
  /-- The configuration inputs change (R5, U9). Log 9. -/
  | config (c : Cfg)
deriving DecidableEq, Repr

/-- What the work-unit selector chooses after a capture (R74). -/
inductive WorkUnit where
  | format | send | skip
deriving DecidableEq, Repr

/-- What the drain selector chooses in L_DRAIN (R75). -/
inductive DrainUnit where
  | lineEnd | format | send | hold
deriving DecidableEq, Repr

/-- What the request vector grants at PH = IDLE (R73). -/
inductive Grant where
  | tick | frame | debug | idle
deriving DecidableEq, Repr

end Sys2Proof
end

