-- ==== Sys2Proof/WellFormed.lean ====
section
/-! DEFINITION. WellFormed.lean: the operands the opcode table admits. Three rows limit theirs: REQ.DEBUG
("text_length <= 254"), CMD_DEBUG and DEBUG.ACCEPT ("1 <= text_length <= 254"). -/

namespace Sys2Proof

/-- `n` is a length a debug-text command can carry (R64, R65). -/
def debugLength (n : Nat) : Bool := decide (1 ≤ n ∧ n ≤ debugTextMax)

/-- The operands of an operation are ones its row of the opcode table admits. -/
def wellFormed : Instr → Bool
  | .cmdDebug text => debugLength text.length
  | .reqDebug text => decide (text.length ≤ debugTextMax)
  | .debugAccept n => debugLength n.toNat
  | .fmtHigh _ | .fmtLow _ | .txReady | .txSend _ | .txTry _ | .linkDone | .cksReset | .cksAcc _ | .cmdByte
  | .cmdNewframe _ _ _ | .lineStart | .padPre | .edgeCapture _ | .edgeFormat | .edgeSend | .edgeSkip | .edgeEnd
  | .padPost | .drainFormat | .drainSend | .lineEnd | .lineBuf | .dirRead _ | .dirSend | .lineDir | .reqFrame
  | .frameAccept | .debugEmpty | .tick | .tickAccept | .frame | .reset => true

end Sys2Proof
end

