-- ==== Sys2Proof/Decode.lean ====
section
/-! DEFINITION. Decode.lean: from bytes to operations and back.

The spec gives these encodings and no others: the wire format of the two commands (R61 to R66), the patterns of the
formatted pixel bytes (R68), CKS_RESET's byte, the request vector (R73), the work-unit selector (R74) and the drain
selector (R75). An operation word of the model is

- a wire command, `00 L body checksum`, for CMD_NEWFRAME and CMD_DEBUG, read as R71 says a receiver reads it;
- the byte `00` alone (or with a length byte `00`, which no command has) for CKS_RESET;
- a legal formatted high byte for FMT_HIGH and a legal formatted low byte for FMT_LOW (log 3);
- or a TAG byte, one of the values that are neither the marker nor a legal pixel byte, then the vector or the operands
  of the row. The tags are the model's own (DESIGN CHOICE, log 2); the vectors after them are the spec's. -/

namespace Sys2Proof

/-- Why bytes are no operation word. -/
inductive DecodeError where
  /-- No byte at all. -/
  | empty
  /-- The word ends inside its operands. -/
  | truncated
  /-- The first byte is no marker, no pixel byte and no tag. -/
  | unknownTag (b : Byte)
  /-- A signal that must be 1 for the row (`rst`, `tick`, `tx_valid`, ...) is given another value. -/
  | notAsserted (level : Byte)
  /-- A selector value that selects no operation: `110` of R75 (the hold), `000` of R73, or a value too wide. -/
  | noSelection (v : Byte)
  /-- A body length that the command code never has (U15). -/
  | badLength (len : Nat)
  /-- A command code that the block never emits (R70). -/
  | reservedCode (code : Byte)
  /-- The checksum is not the XOR of the body (R61, R66). -/
  | badChecksum (c : Byte)
deriving DecidableEq, Repr

/-! ## The selectors -/

/-- R74: `{FMT, rdy}`. -/
def decodeWork (v : BitVec 2) : WorkUnit :=
  if v.getLsbD 1 then (if v.getLsbD 0 then .send else .skip) else .format

/-- R75: `{more, FMT, rdy}`. -/
def decodeDrain (v : BitVec 3) : DrainUnit :=
  if v.getLsbD 2 then
    (if v.getLsbD 1 then (if v.getLsbD 0 then .send else .hold) else .format)
  else .lineEnd

/-- R73: `{TPEND, req_frame, req_debug}`, fixed priority, highest first. -/
def decodeRequest (v : BitVec 3) : Grant :=
  if v.getLsbD 2 then .tick else if v.getLsbD 1 then .frame else if v.getLsbD 0 then .debug else .idle

/-- The operation that the work-unit selector names. -/
def workInstr : WorkUnit → Instr
  | .format => .edgeFormat
  | .send => .edgeSend
  | .skip => .edgeSkip

/-- The operation that the drain selector names; the hold is none. -/
def drainInstr : DrainUnit → Option Instr
  | .lineEnd => some .lineEnd
  | .format => some .drainFormat
  | .send => some .drainSend
  | .hold => none

/-! ## The wire format -/

/-- The XOR of a list of bytes, the checksum of a body (R61, R66). -/
def xorAll (l : List Byte) : Byte := l.foldl (· ^^^ ·) 0

/-- R68, row "formatted high": bit 3 is the complement of bit 5. -/
def isHighPattern (b : Byte) : Bool := b.getLsbD 5 != b.getLsbD 3

/-- R68, row "formatted low": bit 5 equals bit 3 and bit 0 is 1. -/
def isLowPattern (b : Byte) : Bool := (b.getLsbD 5 == b.getLsbD 3) && b.getLsbD 0

/-- R62, R63: `packed[7:4] = f`, `packed[3:2] = h[9:8]`, `packed[1:0] = w[9:8]`. -/
def packFields (w h : BitVec 10) (f : BitVec 4) : Byte :=
  f ++ h.extractLsb' 8 2 ++ w.extractLsb' 8 2

/-- The body of the frame-start command (R60, R62). -/
def frameBody (w h : BitVec 10) (f : BitVec 4) : List Byte :=
  [0x11, w.extractLsb' 0 8, h.extractLsb' 0 8, packFields w h f]

/-- The body of the debug-text command (R60, R64). -/
def debugBody (text : List Byte) : List Byte := 0x13 :: text

/-- R61: marker, length, body, checksum. -/
def wireCommand (body : List Byte) : List Byte :=
  0x00 :: BitVec.ofNat 8 body.length :: (body ++ [xorAll body])

/-- The command a body stands for, told by its first byte (R61, R70). -/
def decodeBody : List Byte → Except DecodeError Instr
  | [] => .error (.badLength 0)
  | code :: operands =>
    if code = 0x11 then
      match operands with
      | [w, h, p] => .ok (.cmdNewframe (p.extractLsb' 0 2 ++ w) (p.extractLsb' 2 2 ++ h) (p.extractLsb' 4 4))
      | _ => .error (.badLength (operands.length + 1))
    else if code = 0x13 then
      match operands with
      | [] => .error (.badLength 1)
      | t :: ts => .ok (.cmdDebug (t :: ts))
    else .error (.reservedCode code)

/-- What follows the marker and the length byte of a command (R71): `len` body bytes, then the checksum. -/
def decodeCommand (len : Nat) (bytes : List Byte) : Except DecodeError (Instr × List Byte) :=
  match bytes.drop len with
  | [] => .error .truncated
  | c :: rest =>
    if xorAll (bytes.take len) = c then
      match decodeBody (bytes.take len) with
      | .ok i => .ok (i, rest)
      | .error e => .error e
    else .error (.badChecksum c)

/-! ## The tags (log 2) -/

/-- One tag for each row, or group of rows over one selector, that no wire pattern stands for. -/
inductive Tag where
  | fmtHigh | fmtLow | txReady | txSend | txTry | linkDone | cksAcc | cmdByte | lineStart | padPre | edgeCapture
  | work | edgeEnd | padPost | drain | lineBuf | dirRead | dirSend | lineDir | request | frameAccept | debugAccept
  | debugEmpty | tick | frame | reset
deriving DecidableEq, Repr

/-- The byte of a tag: never the marker `00`, never a legal pixel byte of R68. -/
def tagByte : Tag → Byte
  | .fmtHigh => 0x02
  | .fmtLow => 0x04
  | .txReady => 0x06
  | .txSend => 0x10
  | .txTry => 0x12
  | .linkDone => 0x14
  | .cksAcc => 0x16
  | .cmdByte => 0x40
  | .lineStart => 0x42
  | .padPre => 0x44
  | .edgeCapture => 0x46
  | .work => 0x50
  | .edgeEnd => 0x52
  | .padPost => 0x54
  | .drain => 0x56
  | .lineBuf => 0x80
  | .dirRead => 0x82
  | .dirSend => 0x84
  | .lineDir => 0x86
  | .request => 0x90
  | .frameAccept => 0x92
  | .debugAccept => 0x94
  | .debugEmpty => 0x96
  | .tick => 0xC0
  | .frame => 0xC2
  | .reset => 0xC4

/-- Every tag, in the order of the opcode table. -/
def allTags : List Tag :=
  [.fmtHigh, .fmtLow, .txReady, .txSend, .txTry, .linkDone, .cksAcc, .cmdByte, .lineStart, .padPre, .edgeCapture,
   .work, .edgeEnd, .padPost, .drain, .lineBuf, .dirRead, .dirSend, .lineDir, .request, .frameAccept, .debugAccept,
   .debugEmpty, .tick, .frame, .reset]

/-- The tag that a byte is, if it is one. -/
def tagOf (b : Byte) : Option Tag := allTags.find? (fun t => tagByte t == b)

/-- A word with no operand. -/
def plainWord (i : Instr) (rest : List Byte) : Except DecodeError (Instr × List Byte) := .ok (i, rest)

/-- A word with one operand byte. -/
def byteWord (mk : Byte → Instr) : List Byte → Except DecodeError (Instr × List Byte)
  | [] => .error .truncated
  | b :: rest => .ok (mk b, rest)

/-- A word whose vector is one signal that is 1 in the row's pattern. -/
def assertedWord (i : Instr) : List Byte → Except DecodeError (Instr × List Byte)
  | [] => .error .truncated
  | l :: rest => if l = 1 then .ok (i, rest) else .error (.notAsserted l)

/-- TX_SEND's vector `{tx_valid, tx_data}` with `tx_valid = 1`. -/
def sendWord : List Byte → Except DecodeError (Instr × List Byte)
  | [] => .error .truncated
  | [_] => .error .truncated
  | v :: b :: rest => if v = 1 then .ok (.txSend b, rest) else .error (.notAsserted v)

/-- `dbg_len[15:0]` as two bytes, low byte first. -/
def lengthWord (lo hi : Byte) : BitVec 16 := hi ++ lo

/-- The work-unit selector's word. -/
def workWord : List Byte → Except DecodeError (Instr × List Byte)
  | [] => .error .truncated
  | v :: rest =>
    if v.toNat < 4 then .ok (workInstr (decodeWork (BitVec.ofNat 2 v.toNat)), rest) else .error (.noSelection v)

/-- The drain selector's word; `110` is the hold, no operation. -/
def drainWord : List Byte → Except DecodeError (Instr × List Byte)
  | [] => .error .truncated
  | v :: rest =>
    if v.toNat < 8 then
      match drainInstr (decodeDrain (BitVec.ofNat 3 v.toNat)) with
      | some i => .ok (i, rest)
      | none => .error (.noSelection v)
    else .error (.noSelection v)

/-- A debug-text request's operands: `dbg_len` and that many text bytes (R5, R143). -/
def textWord : List Byte → Except DecodeError (Instr × List Byte)
  | [] => .error .truncated
  | [_] => .error .truncated
  | lo :: hi :: rest =>
    if (lengthWord lo hi).toNat ≤ rest.length then
      .ok (.reqDebug (rest.take (lengthWord lo hi).toNat), rest.drop (lengthWord lo hi).toNat)
    else .error .truncated

/-- The request vector's word. -/
def requestWord : List Byte → Except DecodeError (Instr × List Byte)
  | [] => .error .truncated
  | v :: rest =>
    if v.toNat < 8 then
      match decodeRequest (BitVec.ofNat 3 v.toNat) with
      | .tick => .ok (.tickAccept, rest)
      | .frame => .ok (.reqFrame, rest)
      | .debug => textWord rest
      | .idle => .error (.noSelection v)
    else .error (.noSelection v)

/-- DEBUG.ACCEPT's operand, 16 bits, low byte first. -/
def acceptWord : List Byte → Except DecodeError (Instr × List Byte)
  | [] => .error .truncated
  | [_] => .error .truncated
  | lo :: hi :: rest => .ok (.debugAccept (lengthWord lo hi), rest)

/-- The word that a tag opens, read from the bytes after the tag. -/
def decodeTagged (t : Tag) (rest : List Byte) : Except DecodeError (Instr × List Byte) :=
  match t with
  | .fmtHigh => byteWord .fmtHigh rest
  | .fmtLow => byteWord .fmtLow rest
  | .txReady => plainWord .txReady rest
  | .txSend => sendWord rest
  | .txTry => byteWord .txTry rest
  | .linkDone => assertedWord .linkDone rest
  | .cksAcc => byteWord .cksAcc rest
  | .cmdByte => plainWord .cmdByte rest
  | .lineStart => plainWord .lineStart rest
  | .padPre => plainWord .padPre rest
  | .edgeCapture => byteWord .edgeCapture rest
  | .work => workWord rest
  | .edgeEnd => plainWord .edgeEnd rest
  | .padPost => plainWord .padPost rest
  | .drain => drainWord rest
  | .lineBuf => plainWord .lineBuf rest
  | .dirRead => byteWord .dirRead rest
  | .dirSend => assertedWord .dirSend rest
  | .lineDir => plainWord .lineDir rest
  | .request => requestWord rest
  | .frameAccept => plainWord .frameAccept rest
  | .debugAccept => acceptWord rest
  | .debugEmpty => plainWord .debugEmpty rest
  | .tick => assertedWord .tick rest
  | .frame => plainWord .frame rest
  | .reset => assertedWord .reset rest

/-- One operation word from the head of `bytes`, with the bytes after it. Total: anything else is rejected by name. -/
def decode : List Byte → Except DecodeError (Instr × List Byte)
  | [] => .error .empty
  | b :: rest =>
    if b = 0 then
      match rest with
      | [] => .ok (.cksReset, [])
      | l :: after => if l = 0 then .ok (.cksReset, rest) else decodeCommand l.toNat after
    else if isHighPattern b then .ok (.fmtHigh b, rest)
    else if isLowPattern b then .ok (.fmtLow b, rest)
    else
      match tagOf b with
      | some t => decodeTagged t rest
      | none => .error (.unknownTag b)

/-! ## The encoder -/

/-- The word of an operation: its wire command where it has one, else its tag and vector. -/
def encode : Instr → List Byte
  | .fmtHigh b => [tagByte .fmtHigh, b]
  | .fmtLow b => [tagByte .fmtLow, b]
  | .txReady => [tagByte .txReady]
  | .txSend b => [tagByte .txSend, 1, b]
  | .txTry b => [tagByte .txTry, b]
  | .linkDone => [tagByte .linkDone, 1]
  | .cksReset => [0x00]
  | .cksAcc b => [tagByte .cksAcc, b]
  | .cmdByte => [tagByte .cmdByte]
  | .cmdNewframe w h f => wireCommand (frameBody w h f)
  | .cmdDebug text => wireCommand (debugBody text)
  | .lineStart => [tagByte .lineStart]
  | .padPre => [tagByte .padPre]
  | .edgeCapture r => [tagByte .edgeCapture, r]
  | .edgeFormat => [tagByte .work, 0b00]
  | .edgeSend => [tagByte .work, 0b11]
  | .edgeSkip => [tagByte .work, 0b10]
  | .edgeEnd => [tagByte .edgeEnd]
  | .padPost => [tagByte .padPost]
  | .drainFormat => [tagByte .drain, 0b100]
  | .drainSend => [tagByte .drain, 0b111]
  | .lineEnd => [tagByte .drain, 0b000]
  | .lineBuf => [tagByte .lineBuf]
  | .dirRead r => [tagByte .dirRead, r]
  | .dirSend => [tagByte .dirSend, 1]
  | .lineDir => [tagByte .lineDir]
  | .reqFrame => [tagByte .request, 0b010]
  | .frameAccept => [tagByte .frameAccept]
  | .reqDebug text =>
    tagByte .request :: 0b001 :: BitVec.ofNat 8 text.length :: BitVec.ofNat 8 (text.length / 256) :: text
  | .debugAccept n => [tagByte .debugAccept, n.extractLsb' 0 8, n.extractLsb' 8 8]
  | .debugEmpty => [tagByte .debugEmpty]
  | .tick => [tagByte .tick, 1]
  | .tickAccept => [tagByte .request, 0b100]
  | .frame => [tagByte .frame]
  | .reset => [tagByte .reset, 1]

/-! ## Words as the opcode table numbers them -/

/-- The bytes of a word of `nbits` bits, bits 7 to 0 first, and zero bytes above them. -/
def wordBytes (nbits w : Nat) : List Byte :=
  (List.range ((nbits + 7) / 8)).map (fun k => BitVec.ofNat 8 (w / 2 ^ (8 * k))) ++ List.replicate 8 0

/-- The operation the decoder reads from a word of the opcode table. -/
def decodeTableWord (nbits w : Nat) : Option Instr :=
  match decode (wordBytes nbits w) with
  | .ok (i, _) => some i
  | .error _ => none

end Sys2Proof
end

