-- ==== Sys2Proof/Machine/State.lean ====
section
/-! DEFINITION. Machine/State.lean: every piece of state R10 gives the block, the environment and interface fields of
the model, the reasons a step can stop, and the state after reset. Plain data throughout. -/

namespace Sys2Proof.Machine

open Sys2Proof

/-- The sequencer phase PH (R12), in the place of a program counter. Its numeric coding is visible nowhere. -/
inductive Phase where
  | idle | cmd | lPre | lAct | lTx | lPost | lDrain
deriving DecidableEq, Repr

/-- The transaction kind TXN (R13). -/
inductive Txn where
  | none | frame | debug
deriving DecidableEq, Repr

/-- The flag HL: which formatting function the next format uses (R21). -/
inductive HighLow where
  | high | low
deriving DecidableEq, Repr

/-- The value that a function or a poll of the last step returned. -/
inductive Result where
  | none
  | bit (v : Bool)
  | byte (v : Byte)
deriving DecidableEq, Repr

/-- The outputs of the last step (R5). Each is a pulse: a step starts with all of them absent. Log 16. -/
structure Outputs where
  ackFrame : Bool
  ackDebug : Bool
  done     : Bool
  txValid  : Bool
  result   : Result
deriving DecidableEq, Repr

/-- No output raised. -/
def Outputs.quiet : Outputs :=
  { ackFrame := false, ackDebug := false, done := false, txValid := false, result := .none }

/-- A byte memory: listed cells, indices strictly rising; an unlisted index holds no known value (R34). Log 12. -/
abbrev Memory := List Host.Cell

/-- The state of the machine. The first group is R10's table; CFG is R4's constant record; the rest is the model's. -/
structure State where
  /-- PH (R12). -/
  ph        : Phase
  /-- TXN (R13). -/
  txn       : Txn
  /-- CIDX (R14). -/
  cidx      : BitVec 9
  /-- CKS (R15). -/
  cks       : Byte
  /-- DLEN (R16). -/
  dlen      : BitVec 16
  /-- ROW (R17). -/
  row       : BitVec 16
  /-- CAP (R18). -/
  cap       : BitVec 17
  /-- SND (R19). -/
  snd       : BitVec 17
  /-- FMT (R20). -/
  fmt       : Bool
  /-- HL (R21). -/
  hl        : HighLow
  /-- TMP (R22). -/
  tmp       : Byte
  /-- TXD (R23). -/
  txd       : Byte
  /-- TXBUSY (R24). -/
  txbusy    : Bool
  /-- TPEND (R25). -/
  tpend     : Bool
  /-- WIRE, the ghost log (R9, R27). -/
  wire      : List Byte
  /-- FCNT (R28). -/
  fcnt      : BitVec 16
  /-- LB, the LineBuffer (R29). -/
  lb        : Memory
  /-- CFG, constant from one reset to the next (R4). -/
  cfg       : Cfg
  /-- The configuration inputs (R5); CFG takes them at reset (R34). Log 8, 9. -/
  cfgIn     : Cfg
  /-- The request line `req_frame`, held by the host until acknowledged (R141). Log 10. -/
  reqFrame  : Bool
  /-- The request line `req_debug` and the text it presents (R143). Log 10. -/
  reqDebug  : Option (List Byte)
  /-- TEXT of the accepted debug request, the host's memory (R30). Log 11. -/
  text      : List Byte
  /-- The running frame was requested by the main context: R151 raises `done` for it. Log 15. -/
  hostFrame : Bool
  /-- The outputs of the last step (R5). Log 16. -/
  out       : Outputs
  /-- The events the environment will bring, the next one first (R7, R8). Log 1. -/
  schedule  : List Event
  /-- The operation port: one operation word, or nothing. Log 2. -/
  op        : List Byte
  /-- How many free values have been drawn. Log 6. -/
  draws     : Nat
deriving DecidableEq, Repr

/-- Why the machine stops with a fault. R34, R49 and U5 ask for a fault where no rule gives a value; no state that
keeps the invariant `BlockInv` of Safety.lean raises one. All are safe: the hardware has no such access. -/
inductive Fault where
  /-- Raised by an access to LB at an index that does not exist, outside 0 to 2W - 1 (R48, R49). Safe. -/
  | lbOutOfRange (i : Nat)
  /-- Raised by a read of LB at an index not captured in this line (R49, R34, U5). Safe. -/
  | lbNotCaptured (i : Nat)
  /-- Raised by CMD.BYTE where `cmdbyte(TXN, i)` is undefined: TXN = NONE, an index past the last one, or a DLEN
  outside 1 to 254 (R103, R16). Safe. -/
  | commandByteUndefined (i : Nat)
  /-- Raised by CMD.BYTE where the text has no byte at the index (R48, R49). Safe. -/
  | textOutOfRange (i : Nat)
deriving DecidableEq, Repr

/-- Why the machine has no meaning for a step. -/
inductive Refusal where
  /-- An instruction whose meaning is not written yet; raised by `exec` alone. Safe. -/
  | notModelled (mnemonic : String)
  /-- Raised by `step` where the bytes at the operation port are no operation word. Safe. -/
  | undecodable (e : DecodeError)
  /-- Raised by REQ.DEBUG, CMD_DEBUG and DEBUG.ACCEPT for a text of 255 bytes or more (R108, U1). Safe. -/
  | debugTextTooLong (n : Nat)
  /-- Raised by a change of the configuration inputs while PH is not IDLE (U9, R189). Safe. -/
  | configChanged
deriving DecidableEq, Repr

/-- The machine right after reset (R34). TMP and TXD, which R34 leaves unspecified, hold 0 (log 5); the configuration
inputs are low (log 8); nothing is scheduled, requested or presented. -/
def State.reset : State :=
  { ph := .idle, txn := .none, cidx := 0, cks := 0, dlen := 0, row := 0, cap := 0, snd := 0, fmt := false,
    hl := .high, tmp := 0, txd := 0, txbusy := false, tpend := false, wire := [], fcnt := 0, lb := [],
    cfg := Cfg.low, cfgIn := Cfg.low, reqFrame := false, reqDebug := none, text := [], hostFrame := false,
    out := Outputs.quiet, schedule := [], op := [], draws := 0 }

end Sys2Proof.Machine
end

