-- ==== Sys2Proof/Machine/Flags.lean ====
section
/-! DEFINITION. Machine/Flags.lean: the flags and conditions that the selectors and the status outputs show. -/

namespace Sys2Proof.Machine

open Sys2Proof

/-- `2 × CFG.WIDTH`, the size of LB and the number of bytes of a line (R29, LB_CAP of R4). -/
def lineBytes (c : Cfg) : Nat := 2 * c.width.toNat

/-- `rdy`, the value of `is_ready()` (R90). -/
def ready (s : State) : Bool := !s.txbusy

/-- BUSY: `PH ≠ IDLE` (R26), the output `busy`. -/
def busy (s : State) : Bool := decide (s.ph ≠ .idle)

/-- `more`: bytes of the line are left to send (R75). -/
def more (s : State) : Bool := decide (s.snd.toNat < lineBytes s.cfg)

/-- The output `frame_count` (R28). -/
def frameCount (s : State) : BitVec 16 := s.fcnt

/-- The output `tx_data`: TXD, the byte in flight (R23). -/
def txData (s : State) : Byte := s.txd

/-- The output `pad_req`: the padding primitive has been called and has not returned (R12, R116, R122). Log 17. -/
def padReq (s : State) : Bool := decide (s.ph = .lPre ∨ s.ph = .lPost)

/-- The output `text_addr` (R5): the index of the text byte that the next CMD.BYTE reads (R103). DESIGN CHOICE: where the
next command byte is no text byte (TXN not DEBUG, CIDX below 3, the checksum byte) the spec gives no value, and the
model shows CIDX - 3 cut off at 0. Log 26. -/
def textAddr (s : State) : Nat := s.cidx.toNat - 3

/-- HL toggled (R21). -/
def toggle : HighLow → HighLow
  | .high => .low
  | .low => .high

/-- Two bits as a vector, the first one high. -/
def bits2 (a b : Bool) : BitVec 2 := BitVec.ofBool a ++ BitVec.ofBool b

/-- Three bits as a vector, the first one high. -/
def bits3 (a b c : Bool) : BitVec 3 := BitVec.ofBool a ++ BitVec.ofBool b ++ BitVec.ofBool c

/-- R74's vector `{FMT, rdy}`. -/
def workVector (s : State) : BitVec 2 := bits2 s.fmt (ready s)

/-- R75's vector `{more, FMT, rdy}`. -/
def drainVector (s : State) : BitVec 3 := bits3 (more s) s.fmt (ready s)

/-- R73's vector `rq = {TPEND, req_frame, req_debug}`. -/
def requestVector (s : State) : BitVec 3 := bits3 s.tpend s.reqFrame s.reqDebug.isSome

/-- The work unit that the next capture is followed by (R74). -/
def workUnit (s : State) : WorkUnit := decodeWork (workVector s)

/-- The step that L_DRAIN takes (R75). -/
def drainUnit (s : State) : DrainUnit := decodeDrain (drainVector s)

/-- The request that an idle block grants (R73, R148). -/
def grant (s : State) : Grant := decodeRequest (requestVector s)

/-- The parity over the masked bits 5 and 3 of a byte: true where it is odd (R83). -/
def maskedParity (b : Byte) : Bool := b.getLsbD 5 != b.getLsbD 3

end Sys2Proof.Machine
end

