-- ==== Sys2Proof/Machine/Ops.lean ====
section
/-! DEFINITION. Machine/Ops.lean: the named operations over the memory and the registers that the meanings share. -/

namespace Sys2Proof.Machine

open Sys2Proof

/-- What a meaning answers. -/
abbrev StepResult := Host.Outcome State Fault Refusal

/-- `a ; b` of R6 for outcomes: `k` sees what the first part wrote; a stop ends both. -/
def andThen (o : StepResult) (k : State → StepResult) : StepResult :=
  match o with
  | .next s => k s
  | .fault f => .fault f
  | .refused r => .refused r

/-! ## Memory: one byte at an index (R45, R46) -/

/-- The byte listed at an index, if one is. -/
def memRead : Memory → Nat → Option Byte
  | [], _ => none
  | (a, v) :: m, i => if i = a then some v else memRead m i

/-- The memory with byte `v` at index `i`; the indices stay strictly rising. -/
def memWrite : Memory → Nat → Byte → Memory
  | [], i, v => [(i, v)]
  | (a, x) :: m, i, v =>
    if i < a then (i, v) :: (a, x) :: m
    else if i = a then (i, v) :: m
    else (a, x) :: memWrite m i v

/-- The canonical form: indices strictly rising. No listed cell can equal what an unlisted index reads as, since an
unlisted index holds no value. -/
abbrev Memory.wf (m : Memory) : Prop := m.Pairwise (fun x y => x.1 < y.1)

/-- Read `LB[i]`: an index outside `0 ≤ i < 2W` does not exist, an index at or above CAP, or one nothing was written
to, was not captured (R49, R34). -/
def readLb (s : State) (i : Nat) (k : Byte → StepResult) : StepResult :=
  if lineBytes s.cfg ≤ i then .fault (.lbOutOfRange i)
  else if s.cap.toNat ≤ i then .fault (.lbNotCaptured i)
  else
    match memRead s.lb i with
    | some b => k b
    | none => .fault (.lbNotCaptured i)

/-! ## Interface -/

/-- A step begins with no output raised (log 16). -/
def State.quiet (s : State) : State := { s with out := Outputs.quiet }

/-- Show the value that a function or a poll returns. -/
def State.returns (s : State) (r : Result) : State := { s with out := { s.out with result := r } }

/-- The host raises `req_frame` and holds it (R141). -/
def State.presentFrame (s : State) : State := { s with reqFrame := true }

/-- The host raises `req_debug` with its text and holds it (R143). -/
def State.presentDebug (s : State) (text : List Byte) : State := { s with reqDebug := some text }

/-- `ack_frame <- 1`; the host lets its request go (R141). -/
def State.ackFrame (s : State) : State := { s with reqFrame := false, out := { s.out with ackFrame := true } }

/-- `ack_debug <- 1`; the host lets its request go (R143). -/
def State.ackDebug (s : State) : State := { s with reqDebug := none, out := { s.out with ackDebug := true } }

/-! ## Channel -/

/-- The hand-over of a byte, one atomic step: `TXD <- b ; TXBUSY <- 1 ; WIRE <- WIRE ++ [b]`, with `tx_valid` raised
(R91). -/
def State.handOver (s : State) (b : Byte) : State :=
  { s with txd := b, txbusy := true, wire := s.wire ++ [b], out := { s.out with txValid := true } }

/-! ## Checksum -/

/-- `CKS <- CKS ^ b` (R101). -/
def State.accumulate (s : State) (b : Byte) : State := { s with cks := s.cks ^^^ b }

/-! ## Lines -/

/-- The logical reset at the head of a line and the entry of L_PRE (R116, R32). -/
def State.startLine (s : State) : State :=
  { s with cap := 0, snd := 0, fmt := false, hl := .high, ph := .lPre }

/-- `LB[CAP] <- r ; CAP <- CAP + 1` (R118). -/
def State.capture (s : State) (r : Byte) : State :=
  { s with lb := memWrite s.lb s.cap.toNat r, cap := s.cap + 1 }

/-- `LB[SND] <- b ; HL <- NOT HL ; FMT <- 1`, the end of a format in place (R119, R124). -/
def State.formatted (s : State) (b : Byte) : State :=
  { s with lb := memWrite s.lb s.snd.toNat b, hl := toggle s.hl, fmt := true }

/-- Hand over a byte of LB, `SND <- SND + 1 ; FMT <- 0` (R120, R125). -/
def State.sendNext (s : State) (b : Byte) : State :=
  { s.handOver b with snd := s.snd + 1, fmt := false }

/-- `ROW <- n` (R150, R126). -/
def State.setRow (s : State) (n : BitVec 16) : State := { s with row := n }

/-- `PH <- p`. -/
def State.setPhase (s : State) (p : Phase) : State := { s with ph := p }

/-! ## Transactions: accepting the trigger and returning (the place of exception entry and return, R170, R171) -/

/-- FRAME accept: `TXN <- FRAME ; FCNT <- FCNT + 1 mod 65536 ; CKS <- 0 ; CIDX <- 0 ; PH <- CMD` (R142). -/
def State.acceptFrame (s : State) : State :=
  { s with txn := .frame, fcnt := s.fcnt + 1, cks := 0, cidx := 0, ph := .cmd }

/-- Accepting the periodic trigger: `TPEND <- 0`, then FRAME accept. Nothing is saved, there is no vector and no mode
(R147, R170). -/
def State.acceptTrigger (s : State) : State := { s with tpend := false, hostFrame := false }.acceptFrame

/-- Accepting the main context's frame request (R141, R142). -/
def State.acceptHostFrame (s : State) : State := { s with hostFrame := true }.acceptFrame.ackFrame

/-- DEBUG accept: `TXN <- DEBUG ; DLEN <- n ; CKS <- 0 ; CIDX <- 0 ; PH <- CMD` (R144). -/
def State.acceptDebug (s : State) (n : BitVec 16) : State :=
  { s with txn := .debug, dlen := n, cks := 0, cidx := 0, ph := .cmd }

/-- Accepting a debug request of this text: TEXT is the text the host presents (R143, R144, log 11). -/
def State.acceptHostDebug (s : State) (text : List Byte) : State :=
  ({ s with text := text }.acceptDebug (BitVec.ofNat 16 text.length)).ackDebug

/-- The end of a transaction: `TXN <- NONE ; PH <- IDLE` (R151, R152). The return that lifts the mask (R171). -/
def State.endTransaction (s : State) : State := { s with txn := .none, ph := .idle }

/-- The end of a frame; `done` is raised for a frame that the main context requested (R151, R150, log 15). -/
def State.endFrame (s : State) : State :=
  { s.endTransaction with out := { s.out with done := s.hostFrame } }

/-- The end of a debug-text command; `done` is raised (R152). -/
def State.endDebug (s : State) : State := { s.endTransaction with out := { s.out with done := true } }

/-- The end of the frame-start command: `ROW <- 0`, then the end of an empty frame, or the first line (R150). -/
def State.endHeader (s : State) : State :=
  if s.cfg.height = 0 then (s.setRow 0).endFrame else (s.setRow 0).startLine

/-- The end of the command in the channel, by its kind (R102). -/
def State.endCommand (s : State) : State :=
  match s.txn with
  | .debug => s.endDebug
  | .frame => s.endHeader
  | .none => s.endTransaction

/-- The end of a line: `ROW <- ROW + 1`, then the end of the frame or the next line; the test sees the new ROW (R126,
90_conflicts.md C10). -/
def State.endLine (s : State) : State :=
  if s.row + 1 = s.cfg.height then (s.setRow (s.row + 1)).endFrame else (s.setRow (s.row + 1)).startLine

/-! ## Reset -/

/-- The reset event: every register to its value of R34; TMP and TXD to free values (log 6); LB to no known value; CFG
to the configuration inputs. The environment (inputs, request lines, TEXT, schedule) is not the block's (log 10). -/
def State.resetBlock (s : State) : State :=
  { s with
    ph := .idle, txn := .none, cidx := 0, cks := 0, dlen := 0, row := 0, cap := 0, snd := 0, fmt := false,
    hl := .high, tmp := Config.freeByte s.draws, txd := Config.freeByte (s.draws + 1), txbusy := false,
    tpend := false, wire := [], fcnt := 0, lb := [], cfg := s.cfgIn, hostFrame := false, out := Outputs.quiet,
    draws := s.draws + 2 }

end Sys2Proof.Machine
end

