-- ==== Sys2Proof/Machine/Operands.lean ====
section
/-! DEFINITION. Machine/Operands.lean: the formatting functions and the command-byte function, the two ways an
operation makes the byte it works on. -/

namespace Sys2Proof.Machine

open Sys2Proof

/-! ## The pixel-byte reformatter -/

/-- `format_high` (R80): bit 5 tested, bit 3 written with its complement. -/
def fmtHigh (b : Byte) : Byte := if b.getLsbD 5 then b &&& ~~~0x08 else b ||| 0x08

/-- `format_low` (R81): bit 3 tested, bit 5 written with a copy, bit 0 set. -/
def fmtLow (b : Byte) : Byte :=
  if b.getLsbD 3 then b ||| 0x20 ||| 0x01 else (b &&& ~~~0x20) ||| 0x01

/-- `fmt_HL(b)`: the function that HL selects (R86). -/
def fmtBy (hl : HighLow) (b : Byte) : Byte :=
  match hl with
  | .high => fmtHigh b
  | .low => fmtLow b

/-! ## The command bytes -/

/-- The packed byte of the frame-start command, as R63 and R103 compute it from CFG. -/
def packedByte (c : Cfg) : Byte :=
  (((c.width >>> 8) &&& 0x03) ||| ((c.height >>> 6) &&& 0x0C) ||| ((c.pixfmt.setWidth 16 <<< 4) &&& 0xF0)).setWidth 8

/-- `last`, the index of the checksum byte (R102). -/
def lastIndex (s : State) : Nat :=
  match s.txn with
  | .debug => s.dlen.toNat + 3
  | .frame => 6
  | .none => 0

/-- `cmdbyte(FRAME, i)` (R103). -/
def frameByte (s : State) : Nat → Except Fault Byte
  | 0 => .ok 0x00
  | 1 => .ok 0x04
  | 2 => .ok 0x11
  | 3 => .ok (s.cfg.width.setWidth 8)
  | 4 => .ok (s.cfg.height.setWidth 8)
  | 5 => .ok (packedByte s.cfg)
  | 6 => .ok s.cks
  | i => .error (.commandByteUndefined i)

/-- `TEXT[i]` (R30, R106); an index past the text has no byte (R48, R49). -/
def textByte (s : State) (i : Nat) : Except Fault Byte :=
  match s.text[i]? with
  | some b => .ok b
  | none => .error (.textOutOfRange i)

/-- `cmdbyte(DEBUG, i)` (R103), for a DLEN in 1 to 254 (R16). -/
def debugByte (s : State) (i : Nat) : Except Fault Byte :=
  if debugLength s.dlen.toNat then
    match i with
    | 0 => .ok 0x00
    | 1 => .ok (BitVec.ofNat 8 (s.dlen.toNat + 1))
    | 2 => .ok 0x13
    | k + 3 =>
      if k < s.dlen.toNat then textByte s k
      else if k = s.dlen.toNat then .ok s.cks
      else .error (.commandByteUndefined i)
  else .error (.commandByteUndefined i)

/-- `cmdbyte(TXN, i)`, undefined for `TXN = NONE` and beyond the last index (R103). -/
def commandByte (s : State) (i : Nat) : Except Fault Byte :=
  match s.txn with
  | .frame => frameByte s i
  | .debug => debugByte s i
  | .none => .error (.commandByteUndefined i)

end Sys2Proof.Machine
end

