-- ==== Sys2Proof/Machine/Arbiter.lean ====
section
/-! DEFINITION. Machine/Arbiter.lean: the format REQ, requests, accepts and the reset event (44_frame_arbiter.md,
70_reset_and_hazards.md). A request that is not accepted stays on the host's line (R141, R143, log 10). -/

namespace Sys2Proof.Machine

open Sys2Proof

/-- REQ.FRAME (R141): presented, and accepted in the same atomic step when PH = IDLE and TPEND = 0. -/
def execReqFrame (s : State) : StepResult :=
  if s.ph = .idle ∧ s.tpend = false then .next s.acceptHostFrame else .next s.presentFrame

/-- FRAME.ACCEPT (R142), the tail of REQ.FRAME or TICK.ACCEPT; its row asks for PH = IDLE. Log 20. -/
def execFrameAccept (s : State) : StepResult :=
  if s.ph = .idle then .next s.acceptFrame else .next s

/-- REQ.DEBUG text (R143): an oversize text has no meaning at an idle block (R108, R156, log 14); else the request is
presented, and accepted in the same step when PH = IDLE, TPEND = 0 and req_frame = 0. -/
def execReqDebug (text : List Byte) (s : State) : StepResult :=
  if s.ph = .idle ∧ debugTextMax < text.length then .refused (.debugTextTooLong text.length)
  else if s.ph = .idle ∧ s.tpend = false ∧ s.reqFrame = false then
    if text.length = 0 then .next s.ackDebug else .next (s.acceptHostDebug text)
  else .next (s.presentDebug text)

/-- DEBUG.ACCEPT n (R144), the tail of REQ.DEBUG; its row asks for PH = IDLE and 1 ≤ n ≤ 254, and n ≥ 255 has no
meaning (R108). Log 20. -/
def execDebugAccept (n : BitVec 16) (s : State) : StepResult :=
  if s.ph = .idle then
    if debugTextMax < n.toNat then .refused (.debugTextTooLong n.toNat)
    else if n.toNat = 0 then .next s
    else .next (s.acceptDebug n)
  else .next s

/-- DEBUG.EMPTY (R145), the tail of REQ.DEBUG for a text of length 0: acknowledged, and nothing else. A text on the
host's line must be the empty one. Log 20. -/
def execDebugEmpty (s : State) : StepResult :=
  if s.ph = .idle ∧ s.reqDebug.getD [] = [] then .next s.ackDebug else .next s

/-- TICK (R146): `TPEND <- 1`, in every phase. -/
def execTick (s : State) : StepResult := .next { s with tpend := true }

/-- TICK.ACCEPT (R147). -/
def execTickAccept (s : State) : StepResult :=
  if s.ph = .idle ∧ s.tpend = true then .next s.acceptTrigger else .next s

/-- RESET (R180), in every phase. -/
def execReset (s : State) : StepResult := .next s.resetBlock

end Sys2Proof.Machine
end

