-- ==== Sys2Proof/Machine/Channel.lean ====
section
/-! DEFINITION. Machine/Channel.lean: the format CH, the transmit channel (41_channel.md). A hold is no step: the state
stays as it is (log 4). -/

namespace Sys2Proof.Machine

open Sys2Proof

/-- TX_READY (R90): `result <- (TXBUSY = 0)`. -/
def execTxReady (s : State) : StepResult := .next (s.returns (.bit (ready s)))

/-- TX_SEND b (R91): hold while TXBUSY = 1, else the hand-over. -/
def execTxSend (b : Byte) (s : State) : StepResult :=
  if s.txbusy then .next s else .next (s.handOver b)

/-- TX_TRY b (R92): the hand-over and success, or no state change and fail. -/
def execTxTry (b : Byte) (s : State) : StepResult :=
  if s.txbusy then .next (s.returns (.bit false)) else .next ((s.handOver b).returns (.bit true))

/-- LINK_DONE (R94): enabled when TXBUSY = 1; `TXBUSY <- 0`. -/
def execLinkDone (s : State) : StepResult :=
  if s.txbusy then .next { s with txbusy := false } else .next s

end Sys2Proof.Machine
end

