-- ==== Sys2Proof/Machine/Formatter.lean ====
section
/-! DEFINITION. Machine/Formatter.lean: the format FN, the two pure functions (40_encoder.md). They read no state and
write none; their result shows on the test port (R82). -/

namespace Sys2Proof.Machine

open Sys2Proof

/-- FMT_HIGH b (R80). -/
def execFmtHigh (b : Byte) (s : State) : StepResult := .next (s.returns (.byte (fmtHigh b)))

/-- FMT_LOW b (R81). -/
def execFmtLow (b : Byte) (s : State) : StepResult := .next (s.returns (.byte (fmtLow b)))

end Sys2Proof.Machine
end

