-- ==== Sys2Proof/Machine/Framer.lean ====
section
/-! DEFINITION. Machine/Framer.lean: the format WIRE, the checksum primitives and the command-byte step
(42_framer.md). -/

namespace Sys2Proof.Machine

open Sys2Proof

/-- CKS_RESET (R100). -/
def execCksReset (s : State) : StepResult := .next { s with cks := 0 }

/-- CKS_ACC b (R101). -/
def execCksAcc (b : Byte) (s : State) : StepResult := .next (s.accumulate b)

/-- The hand-over of command byte `b`, the accumulation of a body byte, and the next index or the end of the command
(R102). -/
def State.emitByte (s : State) (b : Byte) : State :=
  let sent := s.handOver b
  let summed := if 2 ≤ s.cidx.toNat ∧ s.cidx.toNat < lastIndex s then sent.accumulate b else sent
  if s.cidx.toNat = lastIndex s then summed.endCommand else { summed with cidx := s.cidx + 1 }

/-- CMD.BYTE (R102): enabled when PH = CMD and TXBUSY = 0; the byte is read from the state before the step, so the
checksum byte is CKS as the body left it. -/
def execCmdByte (s : State) : StepResult :=
  if s.ph = .cmd ∧ s.txbusy = false then
    match commandByte s s.cidx.toNat with
    | .ok b => .next (s.emitByte b)
    | .error f => .fault f
  else .next s

end Sys2Proof.Machine
end

