-- ==== Sys2Proof/Machine/Line.lean ====
section
/-! DEFINITION. Machine/Line.lean: the format UOP, the steps of a line (43_line_pipeline.md). Each operation is
guarded by the selection of its row of the opcode table; outside it there is no such step and the state stays as it is
(R134, log 4). -/

namespace Sys2Proof.Machine

open Sys2Proof

/-- The step whose tail LINE_START is has come to its end: the last CMD.BYTE of a frame-start command (R150), with no
byte in flight, or LINE_END (R126). With a byte in flight, or before the last index, SEQ is in a hold or in the middle
of a sequence, which nothing but LINK_DONE and SEQ's own steps lead out of (R97, R135, R163). Log 20. -/
def lineMayStart (s : State) : Bool :=
  match s.ph with
  | .cmd => ready s && decide (s.cidx.toNat = lastIndex s)
  | .lDrain => decide (s.snd.toNat = lineBytes s.cfg)
  | .idle => false
  | .lPre => false
  | .lAct => false
  | .lTx => false
  | .lPost => false

/-- LINE_START (R116), the tail of the last CMD.BYTE of a frame-start command or of LINE_END; its row asks for
ROW < CFG.HEIGHT. Log 20. -/
def execLineStart (s : State) : StepResult :=
  if lineMayStart s ∧ s.txn = .frame ∧ s.row.toNat < s.cfg.height.toNat then .next s.startLine
  else .next s

/-- PAD_PRE (R117). -/
def execPadPre (s : State) : StepResult :=
  if s.ph = .lPre then .next (s.setPhase (if 0 < s.cfg.width.toNat then .lAct else .lPost)) else .next s

/-- EDGE.CAPTURE r (R118), the first part of a buffered edge. A write outside LB does not exist (R49). -/
def execEdgeCapture (r : Byte) (s : State) : StepResult :=
  if s.ph = .lAct ∧ s.cfg.strat = .buf then
    if s.cap.toNat < lineBytes s.cfg then .next (s.capture r) else .fault (.lbOutOfRange s.cap.toNat)
  else .next s

/-- EDGE.FORMAT (R119), the work unit when FMT = 0. -/
def execEdgeFormat (s : State) : StepResult :=
  if s.ph = .lAct ∧ s.cfg.strat = .buf ∧ s.fmt = false then
    readLb s s.snd.toNat (fun b => .next (s.formatted (fmtBy s.hl b)))
  else .next s

/-- EDGE.SEND (R120), the work unit when FMT = 1 and the link is ready. -/
def execEdgeSend (s : State) : StepResult :=
  if s.ph = .lAct ∧ s.cfg.strat = .buf ∧ s.fmt = true ∧ s.txbusy = false then
    readLb s s.snd.toNat (fun b => .next (s.sendNext b))
  else .next s

/-- EDGE.SKIP (R121): "no state change", the work unit when FMT = 1 and the link is not ready. -/
def execEdgeSkip (s : State) : StepResult := .next s

/-- EDGE.END (R122), the third part of a buffered edge: the window ends when CAP = 2W. -/
def execEdgeEnd (s : State) : StepResult :=
  if s.ph = .lAct ∧ s.cfg.strat = .buf ∧ s.cap.toNat = lineBytes s.cfg then .next (s.setPhase .lPost) else .next s

/-- PAD_POST (R123). -/
def execPadPost (s : State) : StepResult :=
  if s.ph = .lPost then .next (s.setPhase .lDrain) else .next s

/-- DRAIN.FORMAT (R124). -/
def execDrainFormat (s : State) : StepResult :=
  if s.ph = .lDrain ∧ s.snd.toNat < lineBytes s.cfg ∧ s.fmt = false then
    readLb s s.snd.toNat (fun b => .next (s.formatted (fmtBy s.hl b)))
  else .next s

/-- DRAIN.SEND (R125); with TXBUSY = 1 it holds. -/
def execDrainSend (s : State) : StepResult :=
  if s.ph = .lDrain ∧ s.snd.toNat < lineBytes s.cfg ∧ s.fmt = true ∧ s.txbusy = false then
    readLb s s.snd.toNat (fun b => .next (s.sendNext b))
  else .next s

/-- LINE_END (R126). -/
def execLineEnd (s : State) : StepResult :=
  if s.ph = .lDrain ∧ s.snd.toNat = lineBytes s.cfg then .next s.endLine else .next s

/-- DIR.READ r (R128): `TMP <- fmt_HL(r) ; HL <- NOT HL ; CAP <- CAP + 1 ; PH <- L_TX`. -/
def execDirRead (r : Byte) (s : State) : StepResult :=
  if s.ph = .lAct ∧ s.cfg.strat = .dir then
    .next { s with tmp := fmtBy s.hl r, hl := toggle s.hl, cap := s.cap + 1, ph := .lTx }
  else .next s

/-- The tail of DIR.SEND: `SND <- SND + 1 ; PH <- L_POST if SND = 2W else L_ACT`, SND the new value (R129, C10). -/
def State.sentDirect (s : State) : State :=
  { s with snd := s.snd + 1, ph := if (s.snd + 1).toNat = lineBytes s.cfg then .lPost else .lAct }

/-- DIR.SEND (R129); with TXBUSY = 1 it holds. -/
def execDirSend (s : State) : StepResult :=
  if s.ph = .lTx ∧ s.txbusy = false then .next (s.handOver s.tmp).sentDirect else .next s

end Sys2Proof.Machine
end

