-- ==== Sys2Proof/Machine/Sequencer.lean ====
section
/-! DEFINITION. Machine/Sequencer.lean: the step relation of R156, one row after the other. The schedule says which
agent moves next; with nothing scheduled the sequencer moves if it can (log 1). -/

namespace Sys2Proof.Machine

open Sys2Proof

/-- The step of SEQ at an idle block: the grant of R73, a held request among them (R141, R143, R147, R148). -/
def arbiterStep (s : State) : StepResult :=
  match grant s with
  | .tick => execTickAccept s
  | .frame => execReqFrame s
  | .debug =>
    match s.reqDebug with
    | some text => execReqDebug text s
    | none => .next s
  | .idle => .next s

/-- The step of SEQ in L_DRAIN (R75). -/
def drainStep (s : State) : StepResult :=
  match drainUnit s with
  | .lineEnd => execLineEnd s
  | .format => execDrainFormat s
  | .send => execDrainSend s
  | .hold => .next s

/-- One step of the agent SEQ (R156); in L_PRE, L_ACT and L_POST it waits for the sensor. -/
def seqStep (s : State) : StepResult :=
  match s.ph with
  | .idle => arbiterStep s
  | .cmd => execCmdByte s
  | .lTx => execDirSend s
  | .lDrain => drainStep s
  | .lPre => .next s
  | .lAct => .next s
  | .lPost => .next s

/-- SEQ has an enabled step. -/
def seqEnabled (s : State) : Bool :=
  match s.ph with
  | .idle => decide (grant s ≠ .idle)
  | .cmd => ready s
  | .lTx => ready s
  | .lDrain => decide (drainUnit s ≠ .hold)
  | .lPre => false
  | .lAct => false
  | .lPost => false

/-- The one work unit of a buffered edge (R74). -/
def workStep (s : State) : StepResult :=
  match workUnit s with
  | .format => execEdgeFormat s
  | .send => execEdgeSend s
  | .skip => execEdgeSkip s

/-- `Edge(r)` (R156): in L_ACT one atomic step, buffered as three parts in order (R118 to R122) or direct (R128);
elsewhere the byte is lost (R134). -/
def edgeStep (r : Byte) (s : State) : StepResult :=
  if s.ph = .lAct then
    match s.cfg.strat with
    | .buf => andThen (andThen (execEdgeCapture r s) workStep) execEdgeEnd
    | .dir => execDirRead r s
  else .next s

/-- `PadDone` (R156): consumed in L_PRE and L_POST only (R134). -/
def padStep (s : State) : StepResult :=
  match s.ph with
  | .lPre => execPadPre s
  | .lPost => execPadPost s
  | .idle => .next s
  | .cmd => .next s
  | .lAct => .next s
  | .lTx => .next s
  | .lDrain => .next s

/-- A change of the configuration inputs: refused while PH ≠ IDLE (U9, R189); CFG takes them at the next reset (R34).
Log 9. -/
def configStep (c : Cfg) (s : State) : StepResult :=
  if s.ph = .idle then .next { s with cfgIn := c } else .refused .configChanged

/-- One event of an agent (R156). -/
def eventStep (e : Event) (s : State) : StepResult :=
  match e with
  | .seq => seqStep s
  | .edge r => edgeStep r s
  | .padDone => padStep s
  | .linkDone => execLinkDone s
  | .reqFrame => execReqFrame s
  | .reqDebug text => execReqDebug text s
  | .tick => execTick s
  | .reset => execReset s
  | .config c => configStep c s

/-- One atomic step of the block: the next scheduled event, or the sequencer where nothing is scheduled. -/
def blockStep (s : State) : StepResult :=
  match s.schedule with
  | [] => seqStep s.quiet
  | e :: rest => eventStep e { s.quiet with schedule := rest }

/-- Atomic steps of the block, while `going` holds and there is a step to take: at most `fuel` of them. -/
def drive (going : State → Bool) : Nat → State → StepResult
  | 0, s => .next s
  | fuel + 1, s =>
    if going s && (!s.schedule.isEmpty || seqEnabled s) then andThen (blockStep s) (drive going fuel) else .next s

/-- Enough steps for every scheduled event and for what the sequencer can then still do without one: at most three
steps (a format, a send, and a format or a LINE_END) before it waits for the link it has just made busy, or for the
sensor. -/
def driveFuel (s : State) : Nat := s.schedule.length + 4

/-- Run the block while `going` holds: to the end, or to the hold that no scheduled event lifts (R163). -/
def driveAll (going : State → Bool) (s : State) : StepResult := drive going (driveFuel s) s

/-! ## The operation port (log 2) -/

/-- The operation waits for the link (the three holds of R97, and TX_SEND's own, R91): the step is not enabled, and the
other agents move. -/
def waitsForLink (i : Instr) (s : State) : Bool :=
  match i with
  | .txSend _ => s.txbusy
  | .cmdByte => decide (s.ph = .cmd) && s.txbusy
  | .drainSend => decide (s.ph = .lDrain ∧ s.snd.toNat < lineBytes s.cfg ∧ s.fmt = true) && s.txbusy
  | .dirSend => decide (s.ph = .lTx) && s.txbusy
  | .fmtHigh _ | .fmtLow _ | .txReady | .txTry _ | .linkDone | .cksReset | .cksAcc _ | .cmdNewframe _ _ _
  | .cmdDebug _ | .lineStart | .padPre | .edgeCapture _ | .edgeFormat | .edgeSend | .edgeSkip | .edgeEnd | .padPost
  | .drainFormat | .lineEnd | .lineBuf | .dirRead _ | .lineDir | .reqFrame | .frameAccept | .reqDebug _
  | .debugAccept _ | .debugEmpty | .tick | .tickAccept | .frame | .reset => false

/-- The operation word at the port, decoded; nothing where the port is empty. -/
def fetchOp (s : State) : Option (Except DecodeError Instr) :=
  match s.op with
  | [] => none
  | b :: bytes =>
    match decode (b :: bytes) with
    | .ok (i, _) => some (.ok i)
    | .error e => some (.error e)

/-- The word leaves the port, and the step begins with no output raised. -/
def State.takeOp (s : State) : State := { s with op := [], out := Outputs.quiet }

/-- Present an operation word of the opcode table at the port. -/
def State.presentOp (s : State) (nbits w : Nat) : State := { s with op := wordBytes nbits w }

end Sys2Proof.Machine
end

