-- ==== Sys2Proof/Machine/Composite.lean ====
section
/-! DEFINITION. Machine/Composite.lean: the operations that are sequences of atomic steps: CMD_NEWFRAME (R104),
CMD_DEBUG (R106), LINE_BUF (R127), LINE_DIR (R130), FRAME (R149). Each runs the block's own atomic steps (R156) over
the scheduled events until its sequence has ended, or until it holds with no event left ("runs to completion or
stalls", R171): then the state stands in the middle of the sequence and goes on from there. Log 19. -/

namespace Sys2Proof.Machine

open Sys2Proof

/-- A command of kind `t` is being emitted. -/
def emitting (t : Txn) (s : State) : Bool := decide (s.ph = .cmd ∧ s.txn = t)

/-- PH is a phase of a line. -/
def inLine (s : State) : Bool :=
  match s.ph with
  | .lPre => true
  | .lAct => true
  | .lTx => true
  | .lPost => true
  | .lDrain => true
  | .idle => false
  | .cmd => false

/-- The line with number `row` of a frame is being run. -/
def runningLine (row : BitVec 16) (s : State) : Bool := inLine s && decide (s.txn = .frame ∧ s.row = row)

/-- The fields that CFG puts into the frame-start command: `W[9:0]`, `H[9:0]`, `F[3:0]` (R105). -/
def frameFields (c : Cfg) : BitVec 10 × BitVec 10 × BitVec 4 :=
  (c.width.setWidth 10, c.height.setWidth 10, c.pixfmt.setWidth 4)

/-- CMD_NEWFRAME (R104): the CMD.BYTE steps of the frame-start command. Its fields are CFG's and no others (D12, log
18). -/
def execCmdNewframe (w h : BitVec 10) (f : BitVec 4) (s : State) : StepResult :=
  if emitting .frame s ∧ (w, h, f) = frameFields s.cfg then driveAll (emitting .frame) s else .next s

/-- CMD_DEBUG text (R106): nothing for an empty text (R107), no meaning for 255 bytes or more (R108), else the CMD.BYTE
steps of the debug-text command. Its text is the one accepted (log 18). -/
def execCmdDebug (text : List Byte) (s : State) : StepResult :=
  if text.length = 0 then .next s
  else if debugTextMax < text.length then .refused (.debugTextTooLong text.length)
  else if emitting .debug s ∧ text = s.text then driveAll (emitting .debug) s
  else .next s

/-- LINE_BUF (R127): the steps of the line that is at hand, under CFG.STRAT = BUF. -/
def execLineBuf (s : State) : StepResult :=
  if runningLine s.row s ∧ s.cfg.strat = .buf then driveAll (runningLine s.row) s else .next s

/-- LINE_DIR (R130): the steps of the line that is at hand, under CFG.STRAT = DIR. -/
def execLineDir (s : State) : StepResult :=
  if runningLine s.row s ∧ s.cfg.strat = .dir then driveAll (runningLine s.row) s else .next s

/-- A frame holds the channel. -/
def runningFrame (s : State) : Bool := decide (s.txn = .frame)

/-- FRAME (R149): FRAME accept at an idle block, then the frame-start command and every line, to the return to IDLE.
Within the frame it goes on from where the frame stands; in a debug command there is no such step. -/
def execFrame (s : State) : StepResult :=
  if s.ph = .idle then driveAll runningFrame s.acceptFrame
  else if s.txn = .frame then driveAll runningFrame s
  else .next s

end Sys2Proof.Machine
end

