-- ==== Sys2Proof/Machine/Dispatch.lean ====
section
/-! DEFINITION. Machine/Dispatch.lean: exec, one arm per constructor of Instr. -/

namespace Sys2Proof.Machine

open Sys2Proof

def exec (i : Instr) (s : State) : Host.Outcome State Fault Refusal :=
  match i with
  | .fmtHigh b => Sys2Proof.Machine.execFmtHigh b s
  | .fmtLow b => Sys2Proof.Machine.execFmtLow b s
  | .txReady => Sys2Proof.Machine.execTxReady s
  | .txSend b => Sys2Proof.Machine.execTxSend b s
  | .txTry b => Sys2Proof.Machine.execTxTry b s
  | .linkDone => Sys2Proof.Machine.execLinkDone s
  | .cksReset => Sys2Proof.Machine.execCksReset s
  | .cksAcc b => Sys2Proof.Machine.execCksAcc b s
  | .cmdByte => Sys2Proof.Machine.execCmdByte s
  | .cmdNewframe w h f => Sys2Proof.Machine.execCmdNewframe w h f s
  | .cmdDebug text => Sys2Proof.Machine.execCmdDebug text s
  | .lineStart => Sys2Proof.Machine.execLineStart s
  | .padPre => Sys2Proof.Machine.execPadPre s
  | .edgeCapture r => Sys2Proof.Machine.execEdgeCapture r s
  | .edgeFormat => Sys2Proof.Machine.execEdgeFormat s
  | .edgeSend => Sys2Proof.Machine.execEdgeSend s
  | .edgeSkip => Sys2Proof.Machine.execEdgeSkip s
  | .edgeEnd => Sys2Proof.Machine.execEdgeEnd s
  | .padPost => Sys2Proof.Machine.execPadPost s
  | .drainFormat => Sys2Proof.Machine.execDrainFormat s
  | .drainSend => Sys2Proof.Machine.execDrainSend s
  | .lineEnd => Sys2Proof.Machine.execLineEnd s
  | .lineBuf => Sys2Proof.Machine.execLineBuf s
  | .dirRead r => Sys2Proof.Machine.execDirRead r s
  | .dirSend => Sys2Proof.Machine.execDirSend s
  | .lineDir => Sys2Proof.Machine.execLineDir s
  | .reqFrame => Sys2Proof.Machine.execReqFrame s
  | .frameAccept => Sys2Proof.Machine.execFrameAccept s
  | .reqDebug text => Sys2Proof.Machine.execReqDebug text s
  | .debugAccept n => Sys2Proof.Machine.execDebugAccept n s
  | .debugEmpty => Sys2Proof.Machine.execDebugEmpty s
  | .tick => Sys2Proof.Machine.execTick s
  | .tickAccept => Sys2Proof.Machine.execTickAccept s
  | .frame => Sys2Proof.Machine.execFrame s
  | .reset => Sys2Proof.Machine.execReset s

end Sys2Proof.Machine
end

