-- ==== Sys2Proof/Machine/Step.lean ====
section
/-! DEFINITION. Machine/Step.lean: one step of the machine. An operation word at the port runs; with no word there, or
with one that waits for the link, the agents move as scheduled (R156). -/

namespace Sys2Proof.Machine

open Sys2Proof

/-- One step. The word's operation runs on the state without the word and with no output raised. -/
def step (s : State) : Host.Outcome State Fault Refusal :=
  match fetchOp s with
  | none => blockStep s
  | some (.error e) => .refused (.undecodable e)
  | some (.ok i) => if waitsForLink i s then blockStep s else exec i s.takeOp

/-- `s` with an operation word of the opcode table stored where the next step fetches it: at the operation port. -/
def State.withFetchWord (s : State) (nbits w : Nat) : State := s.presentOp nbits w

end Sys2Proof.Machine
end

