-- ==== Sys2Proof/Safety.lean ====
section
/-! DEFINITION. Safety.lean: what the claims are stated in: the invariant of the block, the grammar of the wire, the
line on the wire, the end of a run and the stall. -/

namespace Sys2Proof.Machine

open Sys2Proof

/-- What LB reads as after the capture of `r` (R118). -/
def capturedView (s : State) (r : Byte) (j : Nat) : Option Byte :=
  if j = s.cap.toNat then some r else memRead s.lb j

/-! ## Events -/

/-- The event is a reset. -/
def isReset (e : Event) : Bool := decide (e = .reset)

/-- The event changes the configuration inputs. -/
def isConfig : Event → Bool
  | .config _ => true
  | .seq | .edge _ | .padDone | .linkDone | .reqFrame | .reqDebug _ | .tick | .reset => false

/-- The next step is no reset. -/
def noResetNext (s : State) : Prop := s.schedule.head? ≠ some .reset

/-- The state in which the next scheduled event `e` is taken, `rest` being the events after it. -/
def State.taking (s : State) (rest : List Event) : State := { s with out := Outputs.quiet, schedule := rest }

/-- The raw bytes of the edges among the events, in order. -/
def rawEdges : List Event → List Byte
  | [] => []
  | .edge r :: es => r :: rawEdges es
  | .seq :: es => rawEdges es
  | .padDone :: es => rawEdges es
  | .linkDone :: es => rawEdges es
  | .reqFrame :: es => rawEdges es
  | .reqDebug _ :: es => rawEdges es
  | .tick :: es => rawEdges es
  | .reset :: es => rawEdges es
  | .config _ :: es => rawEdges es

/-! ## The bytes of a line, a frame and a command -/

/-- The raw bytes of a line formatted in order, the first by the function that `hl` selects (R115, R86). -/
def formatLine : HighLow → List Byte → List Byte
  | _, [] => []
  | hl, r :: rs => fmtBy hl r :: formatLine (toggle hl) rs

/-- The two raw bytes of a 16-bit pixel, the high byte first (R67, R41). -/
def pixelBytes (p : BitVec 16) : List Byte := [p.extractLsb' 8 8, p.extractLsb' 0 8]

/-- The seven wire bytes of the frame-start command under `c` (R62, R105). -/
def frameCommand (c : Cfg) : List Byte :=
  wireCommand (frameBody (c.width.setWidth 10) (c.height.setWidth 10) (c.pixfmt.setWidth 4))

/-- The wire bytes of the debug-text command of a text (R64). -/
def debugCommand (text : List Byte) : List Byte := wireCommand (debugBody text)

/-- A byte that may stand at index `i` of a pixel stream: a formatted high byte at an even index, a formatted low byte
at an odd one (R68, R69). -/
def legalPixel (i : Nat) (b : Byte) : Bool := if i % 2 = 0 then isHighPattern b else isLowPattern b

/-- Every byte of a pixel stream is legal for its index. -/
def legalPixels (px : List Byte) : Prop := ∀ i b, px[i]? = some b → legalPixel i b = true

/-- R60's grammar without an unfinished last unit: debug commands stand between frames, a pixel stream follows every
frame-start command and only such a command, and has `2 × W × H` bytes (R69). -/
inductive WireStream (c : Cfg) : List Byte → Prop where
  | empty : WireStream c []
  | debug (w text : List Byte) (hw : WireStream c w) (ht : debugLength text.length = true) :
      WireStream c (w ++ debugCommand text)
  | frame (w px : List Byte) (hw : WireStream c w) (hl : px.length = lineBytes c * c.height.toNat)
      (hp : legalPixels px) : WireStream c (w ++ (frameCommand c ++ px))

/-- What stands on the wire of the unit that is being sent (R60 "the last unit possibly unfinished"). -/
def unfinished (s : State) (p : List Byte) : Prop :=
  match s.txn with
  | .none => p = []
  | .debug => p = (debugCommand s.text).take s.cidx.toNat ∧ s.cks = xorAll (p.drop 2)
  | .frame =>
    if s.ph = .cmd then p = (frameCommand s.cfg).take s.cidx.toNat ∧ s.cks = xorAll (p.drop 2)
    else ∃ px, p = frameCommand s.cfg ++ px ∧ px.length = lineBytes s.cfg * s.row.toNat + s.snd.toNat ∧ legalPixels px

/-- The wire so far is a legal stream with its last unit possibly unfinished, and the byte that waits to be sent, in
LB or in TMP, is legal for its index. -/
structure WireOk (s : State) : Prop where
  wire : ∃ w p, s.wire = w ++ p ∧ WireStream s.cfg w ∧ unfinished s p
  buffered : inLine s = true → s.cfg.strat = .buf → s.fmt = true →
    ∀ b, memRead s.lb s.snd.toNat = some b → legalPixel s.snd.toNat b = true
  direct : s.ph = .lTx → legalPixel s.snd.toNat s.tmp = true

/-! ## The invariant of the block -/

/-- FMT as a count (R31). -/
def fmtCount (s : State) : Nat := s.fmt.toNat

/-- PH is L_POST or L_DRAIN: every byte of the line has been captured. -/
def captureOver (s : State) : Prop := s.ph = .lPost ∨ s.ph = .lDrain

/-- What every step of the agents keeps, with nothing at the operation port: R13, R14, R16, R17, R20, R31, R49, R131. -/
structure BlockInv (s : State) : Prop where
  /-- The operation port is empty: only the agents move. -/
  port : s.op = []
  /-- LB keeps its canonical form. -/
  lbForm : Memory.wf s.lb
  /-- LB has no cell outside 0 to 2W - 1 (R48). -/
  lbRange : ∀ c ∈ s.lb, c.1 < lineBytes s.cfg
  /-- TXN is NONE when PH = IDLE and only then (R13). -/
  idle : s.txn = .none ↔ s.ph = .idle
  /-- A debug transaction is one command (R140). -/
  debugPhase : s.txn = .debug → s.ph = .cmd
  /-- CIDX is at most 6 in a frame-start command (R102). -/
  frameIndex : s.ph = .cmd → s.txn = .frame → s.cidx.toNat ≤ 6
  /-- DLEN is 1 to 254 and the length of TEXT, and CIDX at most DLEN + 3, in a debug command (R14, R16). -/
  debugIndex : s.txn = .debug →
    debugLength s.dlen.toNat = true ∧ s.text.length = s.dlen.toNat ∧ s.cidx.toNat ≤ s.dlen.toNat + 3
  /-- A line is one of the frame's (R17). -/
  lineRow : inLine s = true → s.row.toNat < s.cfg.height.toNat
  /-- The logical reset at the head of a line (R32). -/
  lineHead : s.ph = .lPre → s.cap = 0 ∧ s.snd = 0 ∧ s.fmt = false ∧ s.hl = .high
  /-- The active window is left when CAP = 2W (R122, R129). -/
  window : s.ph = .lAct → s.cap.toNat < lineBytes s.cfg
  /-- `2 × SND + FMT ≤ CAP` in the active window of the buffered strategy, and still when it ends (R131 b, R133). -/
  backlog : s.ph = .lAct ∨ s.ph = .lPost → s.cfg.strat = .buf → 2 * s.snd.toNat + fmtCount s ≤ s.cap.toNat
  /-- After the window CAP = 2W, and `SND + FMT ≤ CAP` (R131 b). -/
  drain : captureOver s → s.cap.toNat = lineBytes s.cfg ∧ s.snd.toNat + fmtCount s ≤ s.cap.toNat
  /-- CAP = SND in the direct strategy outside L_TX (R131 c). -/
  directCursors : s.ph = .lAct ∨ captureOver s → s.cfg.strat = .dir → s.cap = s.snd
  /-- L_TX is the direct strategy's, with CAP = SND + 1 (R131 c). -/
  directSending : s.ph = .lTx →
    s.cfg.strat = .dir ∧ s.cap.toNat = s.snd.toNat + 1 ∧ s.cap.toNat ≤ lineBytes s.cfg
  /-- The direct strategy does not use FMT (R20). -/
  directFmt : inLine s = true → s.cfg.strat = .dir → s.fmt = false
  /-- HL = HIGH exactly when the number of bytes formatted is even, SND + FMT in the buffered strategy (R131 d). -/
  bufferedRole : inLine s = true → s.cfg.strat = .buf → (s.hl = .high ↔ (s.snd.toNat + fmtCount s) % 2 = 0)
  /-- The same with CAP in the direct strategy (R131 d). -/
  directRole : inLine s = true → s.cfg.strat = .dir → (s.hl = .high ↔ s.cap.toNat % 2 = 0)
  /-- Every byte below CAP has been captured (R49). -/
  captured : inLine s = true → s.cfg.strat = .buf → ∀ i, i < s.cap.toNat → (memRead s.lb i).isSome = true

/-! ## Runs -/

/-- A run is over (R9). -/
def runOver (s : State) : Bool :=
  decide (s.ph = .idle) && !s.tpend && !s.reqFrame && s.reqDebug.isNone && !s.txbusy

/-- ChannelStall (R163): SEQ holds for the link. -/
def channelStall (s : State) : Bool :=
  s.txbusy && (decide (s.ph = .cmd ∨ s.ph = .lTx) || (decide (s.ph = .lDrain) && more s && s.fmt))

/-- The operation is a sequence of the block's own steps. -/
def isComposite : Instr → Bool
  | .cmdNewframe _ _ _ => true
  | .cmdDebug _ => true
  | .lineBuf => true
  | .lineDir => true
  | .frame => true
  | .fmtHigh _ | .fmtLow _ | .txReady | .txSend _ | .txTry _ | .linkDone | .cksReset | .cksAcc _ | .cmdByte
  | .lineStart | .padPre | .edgeCapture _ | .edgeFormat | .edgeSend | .edgeSkip | .edgeEnd | .padPost
  | .drainFormat | .drainSend | .lineEnd | .dirRead _ | .dirSend | .reqFrame
  | .frameAccept | .reqDebug _ | .debugAccept _ | .debugEmpty | .tick | .tickAccept | .reset => false

/-- One pixel byte of the direct strategy over a prompt link: the edge, the send, the release of the byte. -/
def directByte (r : Byte) : List Event := [.edge r, .seq, .linkDone]

/-- The rest of a direct line from its active window on, over a prompt link. -/
def directWindow (raw : List Byte) : List Event := raw.flatMap directByte ++ [.padDone, .seq]

/-- A whole direct line over a prompt link, from L_PRE on. -/
def directLine (raw : List Byte) : List Event := .padDone :: directWindow raw

/-- A whole buffered line from its active window on, over a prompt link: every edge's byte is released at once, half of
the line is sent inside the window, and the other half is drained (R122, R124 to R126). -/
def bufferedWindow (c : Cfg) (raw : List Byte) : List Event :=
  raw.flatMap (fun r => [Event.edge r, Event.linkDone]) ++ [.padDone] ++
    (List.replicate c.width.toNat [Event.seq, Event.seq, Event.linkDone]).flatten ++ [.seq]

/-- A whole buffered line over a prompt link, from L_PRE on. -/
def bufferedLine (c : Cfg) (raw : List Byte) : List Event := .padDone :: bufferedWindow c raw

/-- `n` command bytes over a prompt link. -/
def commandEvents (n : Nat) : List Event := (List.replicate n [Event.seq, Event.linkDone]).flatten

end Sys2Proof.Machine
end

