-- ==== Sys2Proof/Certificates/Slice0/Obligations.lean ====
section
/-! DEFINITION. Certificates/Slice0/Obligations.lean: the statements for the provers. A result statement gives the whole
next state as a record update of the state before, so that every field it does not name is unchanged; where LB is
written, the statement says what one byte read gives, and that every other index reads as before. "Log n" is
notes/assumptions/n.md: a convention of the model. -/

open Sys2Proof Sys2Proof.Machine

/-! ## Encoding -/

/-- Decode and encode agree on every operation and every operand its row admits (R62 to R65, R73 to R75; the tags are
the model's, log 2). -/
def Obligations.DecodeOfEncodeIsIdentity : Prop :=
  ∀ i : Instr, wellFormed i = true → decode (encode i) = .ok (i, [])

/-- A few words: S7 and the corrected S8 of 95_test_vectors.md and CKS_RESET's byte, which are the spec's; a formatted
high and a formatted low byte, whose patterns are R68's and whose reading as FMT operations is the model's choice (log
3); and one vector of each selector (R73 to R75) after a tag byte of the model's choice (log 2). -/
def Obligations.SpecWordsDecode : Prop :=
  decode [0x00, 0x04, 0x11, 0x40, 0xF0, 0x11, 0xB0] = .ok (.cmdNewframe 320 240 1, []) ∧
  decode [0x00, 0x08, 0x13, 0x46, 0x72, 0x61, 0x6D, 0x65, 0x20, 0x31, 0x5F] =
    .ok (.cmdDebug [0x46, 0x72, 0x61, 0x6D, 0x65, 0x20, 0x31], []) ∧
  decode [0x08] = .ok (.fmtHigh 0x08, []) ∧ decode [0x29] = .ok (.fmtLow 0x29, []) ∧
  decode [0x00] = .ok (.cksReset, []) ∧
  decode [0x50, 0b01] = .ok (.edgeFormat, []) ∧ decode [0x56, 0b111] = .ok (.drainSend, []) ∧
  decode [0x90, 0b110] = .ok (.tickAccept, [])

/-- The three selectors, bit by bit (R73, R74, R75). -/
def Obligations.SelectorTables : Prop :=
  (∀ f r : Bool, decodeWork (bits2 f r) = if f then (if r then .send else .skip) else .format) ∧
  (∀ m f r : Bool, decodeDrain (bits3 m f r) =
    if m then (if f then (if r then .send else .hold) else .format) else .lineEnd) ∧
  (∀ t f d : Bool, decodeRequest (bits3 t f d) = if t then .tick else if f then .frame else if d then .debug else .idle)

/-- Any command the block emits XORs to zero over its body and checksum (R109). -/
def Obligations.CommandChecksumRoundTrip : Prop :=
  ∀ body : List Byte, xorAll ((wireCommand body).drop 2) = 0

/-! ## The pixel-byte reformatter -/

/-- FMT_HIGH (R80): the pseudocode and the bit form, for all 256 operands; nothing but the shown result changes. -/
def Obligations.FmtHighResult : Prop :=
  ∀ (b : Byte) (s : State), ∃ r : Byte,
    (r = if b.getLsbD 5 then b &&& ~~~0x08 else b ||| 0x08) ∧
    (∀ i, i < 8 → r.getLsbD i = if i = 3 then !b.getLsbD 5 else b.getLsbD i) ∧
    exec (.fmtHigh b) s = .next { s with out := { s.out with result := .byte r } }

/-- FMT_LOW (R81): the pseudocode and the bit form, for all 256 operands; nothing but the shown result changes. -/
def Obligations.FmtLowResult : Prop :=
  ∀ (b : Byte) (s : State), ∃ r : Byte,
    (r = if b.getLsbD 3 then b ||| 0x20 ||| 0x01 else (b &&& ~~~0x20) ||| 0x01) ∧
    (∀ i, i < 8 → r.getLsbD i = if i = 5 then b.getLsbD 3 else if i = 0 then true else b.getLsbD i) ∧
    exec (.fmtLow b) s = .next { s with out := { s.out with result := .byte r } }

/-- The parity invariant and the non-zero invariant (R83, R84). -/
def Obligations.FormattedParityAndNonZero : Prop :=
  ∀ b : Byte,
    ((fmtHigh b).getLsbD 5 != (fmtHigh b).getLsbD 3) = true ∧ ((fmtLow b).getLsbD 5 == (fmtLow b).getLsbD 3) = true ∧
    fmtHigh b ≠ 0 ∧ fmtLow b ≠ 0 ∧ (fmtLow b).getLsbD 0 = true

/-- The legal bytes of R68 are the results of the two functions, and the functions leave them as they are (R85 a). -/
def Obligations.LegalBytesAreTheResults : Prop :=
  ∀ v : Byte,
    (isHighPattern v = true ↔ ∃ b, fmtHigh b = v) ∧ (isLowPattern v = true ↔ ∃ b, fmtLow b = v) ∧
    (isHighPattern v = true → fmtHigh v = v) ∧ (isLowPattern v = true → fmtLow v = v)

/-! ## The transmit channel -/

/-- TX_READY (R90): `result <- (TXBUSY = 0)`, and no state changes. -/
def Obligations.TxReadyPolls : Prop :=
  ∀ s : State, exec .txReady s = .next { s with out := { s.out with result := .bit (decide (s.txbusy = false)) } }

/-- TX_SEND (R91): with the link ready, the hand-over in one step. -/
def Obligations.TxSendHandsOver : Prop :=
  ∀ (b : Byte) (s : State), s.txbusy = false →
    exec (.txSend b) s = .next
      { s with txd := b, txbusy := true, wire := s.wire ++ [b], out := { s.out with txValid := true } }

/-- TX_TRY (R92): a hand-over and success, or no state change and fail. -/
def Obligations.TxTryNeverHolds : Prop :=
  ∀ (b : Byte) (s : State),
    (s.txbusy = false → exec (.txTry b) s = .next
      { s with txd := b, txbusy := true, wire := s.wire ++ [b],
               out := { s.out with txValid := true, result := .bit true } }) ∧
    (s.txbusy = true → exec (.txTry b) s = .next { s with out := { s.out with result := .bit false } })

/-- LINK_DONE (R94): with a byte in flight, `TXBUSY <- 0`, TXD kept; with none it is not enabled and nothing changes
(log 4). -/
def Obligations.LinkDoneReleases : Prop :=
  ∀ s : State,
    (s.txbusy = true → exec .linkDone s = .next { s with txbusy := false }) ∧
    (s.txbusy = false → exec .linkDone s = .next s)

/-- The places that wait for the link (R97, R91): with a byte in flight there is no such step. That a hold answers the
same state as a next state is the model's choice (log 4). -/
def Obligations.HoldsWhileLinkBusy : Prop :=
  ∀ (b : Byte) (s : State), s.txbusy = true →
    exec (.txSend b) s = .next s ∧ exec .cmdByte s = .next s ∧ exec .dirSend s = .next s ∧
    exec .drainSend s = .next s

/-- At most one byte is in flight (R95, R96, R97): a step of the agents other than a reset leaves the wire as it is, and
TXBUSY too unless it is the LinkDone that clears it, or hands over one byte in a step that begins with TXBUSY = 0 and
ends with TXBUSY = 1, that byte in TXD. -/
def Obligations.OneByteInFlight : Prop :=
  ∀ s t : State, s.op = [] → noResetNext s → step s = .next t →
    (t.wire = s.wire ∧ t.txd = s.txd ∧
      (t.txbusy = s.txbusy ∨ (s.txbusy = true ∧ t.txbusy = false ∧ s.schedule.head? = some .linkDone))) ∨
    (s.txbusy = false ∧ t.txbusy = true ∧ t.wire = s.wire ++ [t.txd])

/-! ## The frame header generator -/

/-- CKS_RESET and CKS_ACC (R100, R101). -/
def Obligations.ChecksumPrimitives : Prop :=
  ∀ (b : Byte) (s : State),
    exec .cksReset s = .next { s with cks := 0 } ∧ exec (.cksAcc b) s = .next { s with cks := s.cks ^^^ b }

/-- The seven bytes of the frame-start command carry the low 10, 10 and 4 bits of CFG and nothing above them (R62, R63,
R105): the encoder's word for CFG's fields is the list of R103, and the packed byte has the fields of R63. -/
def Obligations.FrameStartCommandBytes : Prop :=
  ∀ c : Cfg,
    frameCommand c =
      [0x00, 0x04, 0x11, c.width.setWidth 8, c.height.setWidth 8, packedByte c,
       0x11 ^^^ c.width.setWidth 8 ^^^ c.height.setWidth 8 ^^^ packedByte c] ∧
    (packedByte c).extractLsb' 0 2 = c.width.extractLsb' 8 2 ∧
    (packedByte c).extractLsb' 2 2 = c.height.extractLsb' 8 2 ∧
    (packedByte c).extractLsb' 4 4 = c.pixfmt.extractLsb' 0 4

/-- CMD.BYTE before the last byte of a frame-start command (R102, R103): the byte is handed over, a body byte is
accumulated, CIDX advances. -/
def Obligations.FrameStartByteStep : Prop :=
  ∀ (s : State) (b : Byte), s.ph = .cmd → s.txn = .frame → s.txbusy = false → s.cidx.toNat < 6 →
    [0x00, 0x04, 0x11, s.cfg.width.setWidth 8, s.cfg.height.setWidth 8, packedByte s.cfg][s.cidx.toNat]? = some b →
    exec .cmdByte s = .next
      { s with txd := b, txbusy := true, wire := s.wire ++ [b], out := { s.out with txValid := true },
               cks := (if 2 ≤ s.cidx.toNat then s.cks ^^^ b else s.cks), cidx := s.cidx + 1 }

/-- CMD.BYTE at CIDX = 6 of a frame-start command (R102, R150): the checksum is handed over and not accumulated; the
first line starts, or the frame of height 0 ends (`done` then is log 15). -/
def Obligations.FrameStartLastByte : Prop :=
  ∀ s : State, s.ph = .cmd → s.txn = .frame → s.txbusy = false → s.cidx = 6 →
    (s.cfg.height ≠ 0 → exec .cmdByte s = .next
      { s with txd := s.cks, txbusy := true, wire := s.wire ++ [s.cks], out := { s.out with txValid := true },
               row := 0, cap := 0, snd := 0, fmt := false, hl := .high, ph := .lPre }) ∧
    (s.cfg.height = 0 → exec .cmdByte s = .next
      { s with txd := s.cks, txbusy := true, wire := s.wire ++ [s.cks],
               out := { s.out with txValid := true, done := s.hostFrame }, row := 0, txn := .none, ph := .idle })

/-- CMD.BYTE before the last byte of a debug-text command (R102, R103, R106). -/
def Obligations.DebugByteStep : Prop :=
  ∀ (s : State) (b : Byte), s.ph = .cmd → s.txn = .debug → s.txbusy = false →
    1 ≤ s.dlen.toNat → s.dlen.toNat ≤ 254 → s.text.length = s.dlen.toNat → s.cidx.toNat < s.dlen.toNat + 3 →
    (0x00 :: BitVec.ofNat 8 (s.dlen.toNat + 1) :: 0x13 :: s.text)[s.cidx.toNat]? = some b →
    exec .cmdByte s = .next
      { s with txd := b, txbusy := true, wire := s.wire ++ [b], out := { s.out with txValid := true },
               cks := (if 2 ≤ s.cidx.toNat then s.cks ^^^ b else s.cks), cidx := s.cidx + 1 }

/-- CMD.BYTE at CIDX = DLEN + 3 of a debug-text command (R102, R152): the checksum, and the end of the transaction. -/
def Obligations.DebugLastByte : Prop :=
  ∀ s : State, s.ph = .cmd → s.txn = .debug → s.txbusy = false →
    1 ≤ s.dlen.toNat → s.dlen.toNat ≤ 254 → s.cidx.toNat = s.dlen.toNat + 3 →
    exec .cmdByte s = .next
      { s with txd := s.cks, txbusy := true, wire := s.wire ++ [s.cks],
               out := { s.out with txValid := true, done := true }, txn := .none, ph := .idle }

/-- Whatever the other agents do meanwhile, CMD_NEWFRAME puts the bytes of its own encoding on the wire, from the marker
on and in order (R62, R104, R110): all of them when the command has ended, the first CIDX of them while it holds. That
the operation runs the scheduled events, and answers in the middle of its sequence, is the model's choice (log 19). -/
def Obligations.FrameStartEmitsItsEncoding : Prop :=
  ∀ (w h : BitVec 10) (f : BitVec 4) (s t : State), s.ph = .cmd → s.txn = .frame → s.cidx = 0 → s.cks = 0 →
    (∀ e ∈ s.schedule, isReset e = false) →
    w = s.cfg.width.setWidth 10 → h = s.cfg.height.setWidth 10 → f = s.cfg.pixfmt.setWidth 4 →
    exec (.cmdNewframe w h f) s = .next t →
    (t.ph ≠ .cmd → t.wire = s.wire ++ encode (.cmdNewframe w h f)) ∧
    (t.ph = .cmd → t.txn = .frame ∧ t.wire = s.wire ++ (encode (.cmdNewframe w h f)).take t.cidx.toNat)

/-- The same for CMD_DEBUG and the text that was accepted (R64, R106, R110), by the same choice of the model (log
19). -/
def Obligations.DebugEmitsItsEncoding : Prop :=
  ∀ s t : State, s.ph = .cmd → s.txn = .debug → s.cidx = 0 → s.cks = 0 → debugLength s.text.length = true →
    s.dlen = BitVec.ofNat 16 s.text.length → (∀ e ∈ s.schedule, isReset e = false) →
    exec (.cmdDebug s.text) s = .next t →
    (t.ph ≠ .cmd → t.wire = s.wire ++ encode (.cmdDebug s.text)) ∧
    (t.ph = .cmd → t.txn = .debug ∧ t.wire = s.wire ++ (encode (.cmdDebug s.text)).take t.cidx.toNat)

/-- Over a link that releases every byte at once, each command is emitted whole and ends: CMD_NEWFRAME in the first
line's L_PRE, or in IDLE for a frame of height 0 (R104, R150), CMD_DEBUG in IDLE with `done` (R106, R152). That the
operation runs the scheduled events is the model's choice (log 19). -/
def Obligations.CommandsOverPromptLink : Prop :=
  ∀ s : State, s.ph = .cmd → s.txbusy = false → s.cidx = 0 → s.cks = 0 →
    (s.txn = .frame → s.schedule = commandEvents 7 →
      ∃ t, exec (.cmdNewframe (s.cfg.width.setWidth 10) (s.cfg.height.setWidth 10) (s.cfg.pixfmt.setWidth 4)) s = .next t ∧
        t.wire = s.wire ++ frameCommand s.cfg ∧ t.ph = (if s.cfg.height = 0 then .idle else .lPre) ∧ t.row = 0 ∧
        t.txbusy = true ∧ t.lb = s.lb ∧ t.fcnt = s.fcnt ∧ t.cfg = s.cfg ∧ t.schedule = [.linkDone]) ∧
    (s.txn = .debug → debugLength s.text.length = true → s.dlen = BitVec.ofNat 16 s.text.length →
      s.schedule = commandEvents (s.text.length + 4) →
      ∃ t, exec (.cmdDebug s.text) s = .next t ∧ t.wire = s.wire ++ encode (.cmdDebug s.text) ∧ t.ph = .idle ∧
        t.txn = .none ∧ t.out.done = true ∧ t.txbusy = true ∧ t.lb = s.lb ∧ t.fcnt = s.fcnt ∧ t.cfg = s.cfg ∧
        t.schedule = [.linkDone])

/-- CMD_DEBUG of an empty text emits nothing and changes nothing (R107); of 255 bytes or more it has no meaning
(R108); that a busy block does not refuse it is log 14. -/
def Obligations.DebugTextBounds : Prop :=
  ∀ (text : List Byte) (s : State),
    (text = [] → exec (.cmdDebug text) s = .next s) ∧
    (255 ≤ text.length → exec (.cmdDebug text) s = .refused (.debugTextTooLong text.length)) ∧
    (255 ≤ text.length → s.ph = .idle → exec (.reqDebug text) s = .refused (.debugTextTooLong text.length)) ∧
    (∀ n : BitVec 16, 255 ≤ n.toNat → s.ph = .idle → exec (.debugAccept n) s = .refused (.debugTextTooLong n.toNat))

/-- A command is never interleaved with anything (R110): while PH = CMD a step of the agents hands over the byte
`cmdbyte(TXN, CIDX)` or none. -/
def Obligations.CommandNotInterleaved : Prop :=
  ∀ s t : State, s.op = [] → s.ph = .cmd → noResetNext s → step s = .next t →
    t.wire = s.wire ∨ ∃ b, commandByte s s.cidx.toNat = .ok b ∧ t.wire = s.wire ++ [b]

/-! ## The byte-stream framer for one scanline -/

/-- LINE_START (R116) run alone: at the end of a frame-start command with no byte in flight, or where LINE_END is
enabled, with ROW < HEIGHT. In the block it is the tail of those two steps and no step of its own; that it runs alone,
and where, is the model's choice (log 20). -/
def Obligations.LineStartResets : Prop :=
  ∀ s : State, (s.ph = .cmd ∧ s.cidx = 6 ∧ s.txbusy = false) ∨ (s.ph = .lDrain ∧ s.snd.toNat = 2 * s.cfg.width.toNat) →
    s.txn = .frame → s.row.toNat < s.cfg.height.toNat →
    exec .lineStart s = .next { s with cap := 0, snd := 0, fmt := false, hl := .high, ph := .lPre }

/-- PAD_PRE and PAD_POST (R117, R123). -/
def Obligations.PaddingReturns : Prop :=
  ∀ s : State,
    (s.ph = .lPre → s.cfg.width ≠ 0 → exec .padPre s = .next { s with ph := .lAct }) ∧
    (s.ph = .lPre → s.cfg.width = 0 → exec .padPre s = .next { s with ph := .lPost }) ∧
    (s.ph = .lPost → exec .padPost s = .next { s with ph := .lDrain })

/-- EDGE.CAPTURE (R118): `LB[CAP] <- r ; CAP <- CAP + 1`; every other index of LB reads as before. -/
def Obligations.EdgeCaptureStores : Prop :=
  ∀ (r : Byte) (s : State), s.ph = .lAct → s.cfg.strat = .buf → s.cap.toNat < 2 * s.cfg.width.toNat →
    ∃ t, exec (.edgeCapture r) s = .next t ∧ t = { s with lb := t.lb, cap := s.cap + 1 } ∧
      memRead t.lb s.cap.toNat = some r ∧ ∀ j, j ≠ s.cap.toNat → memRead t.lb j = memRead s.lb j

/-- EDGE.FORMAT and DRAIN.FORMAT (R119, R124): the byte at the send cursor is formatted in place by the function HL
selects (R86); every other index of LB reads as before. -/
def Obligations.FormatInPlace : Prop :=
  ∀ (s : State) (b : Byte), s.fmt = false → s.snd.toNat < s.cap.toNat → s.snd.toNat < 2 * s.cfg.width.toNat →
    memRead s.lb s.snd.toNat = some b →
    (s.ph = .lAct → s.cfg.strat = .buf →
      ∃ t, exec .edgeFormat s = .next t ∧ t = { s with lb := t.lb, hl := toggle s.hl, fmt := true } ∧
        memRead t.lb s.snd.toNat = some (if s.hl = .high then fmtHigh b else fmtLow b) ∧
        ∀ j, j ≠ s.snd.toNat → memRead t.lb j = memRead s.lb j) ∧
    (s.ph = .lDrain →
      ∃ t, exec .drainFormat s = .next t ∧ t = { s with lb := t.lb, hl := toggle s.hl, fmt := true } ∧
        memRead t.lb s.snd.toNat = some (if s.hl = .high then fmtHigh b else fmtLow b) ∧
        ∀ j, j ≠ s.snd.toNat → memRead t.lb j = memRead s.lb j)

/-- EDGE.SEND and DRAIN.SEND (R120, R125): the byte at the send cursor is handed over, SND advances, FMT falls; the
byte stays in LB. -/
def Obligations.SendFromLineBuffer : Prop :=
  ∀ (s : State) (b : Byte), s.fmt = true → s.txbusy = false → s.snd.toNat < s.cap.toNat →
    s.snd.toNat < 2 * s.cfg.width.toNat → memRead s.lb s.snd.toNat = some b →
    (s.ph = .lAct → s.cfg.strat = .buf → exec .edgeSend s = .next
      { s with txd := b, txbusy := true, wire := s.wire ++ [b], out := { s.out with txValid := true },
               snd := s.snd + 1, fmt := false }) ∧
    (s.ph = .lDrain → exec .drainSend s = .next
      { s with txd := b, txbusy := true, wire := s.wire ++ [b], out := { s.out with txValid := true },
               snd := s.snd + 1, fmt := false })

/-- EDGE.SKIP (R121): no state change. EDGE.END (R122): the window is left when CAP = 2W and only then. -/
def Obligations.SkipAndWindowEnd : Prop :=
  ∀ s : State, s.ph = .lAct → s.cfg.strat = .buf →
    (s.fmt = true → s.txbusy = true → exec .edgeSkip s = .next s) ∧
    (s.cap.toNat = 2 * s.cfg.width.toNat → exec .edgeEnd s = .next { s with ph := .lPost }) ∧
    (s.cap.toNat ≠ 2 * s.cfg.width.toNat → exec .edgeEnd s = .next s)

/-- LINE_END (R126, R151): ROW counts the line; the frame ends at the last one, else the next line starts. The record of
who asked, which `done` shows, is the model's choice (log 15). -/
def Obligations.LineEndCountsRow : Prop :=
  ∀ s : State, s.ph = .lDrain → s.snd.toNat = 2 * s.cfg.width.toNat →
    (s.row + 1 = s.cfg.height → exec .lineEnd s = .next
      { s with row := s.row + 1, txn := .none, ph := .idle, out := { s.out with done := s.hostFrame } }) ∧
    (s.row + 1 ≠ s.cfg.height → exec .lineEnd s = .next
      { s with row := s.row + 1, cap := 0, snd := 0, fmt := false, hl := .high, ph := .lPre })

/-- DIR.READ and DIR.SEND (R128, R129). -/
def Obligations.DirectByte : Prop :=
  ∀ (r : Byte) (s : State),
    (s.ph = .lAct → s.cfg.strat = .dir → exec (.dirRead r) s = .next
      { s with tmp := (if s.hl = .high then fmtHigh r else fmtLow r), hl := toggle s.hl, cap := s.cap + 1,
               ph := .lTx }) ∧
    (s.ph = .lTx → s.txbusy = false → exec .dirSend s = .next
      { s with txd := s.tmp, txbusy := true, wire := s.wire ++ [s.tmp], out := { s.out with txValid := true },
               snd := s.snd + 1, ph := (if (s.snd + 1).toNat = 2 * s.cfg.width.toNat then .lPost else .lAct) })

/-- One buffered edge as a step of the machine (R118 to R122, R74), in a state of the invariant: one capture, exactly one
work unit, and the end of the window when CAP = 2W; every index of LB that is not captured or formatted reads as before,
and every field not named stays. -/
def Obligations.BufferedEdgeStep : Prop :=
  ∀ (s : State) (r : Byte) (rest : List Event), BlockInv s → s.ph = .lAct → s.cfg.strat = .buf →
    s.schedule = .edge r :: rest →
    ∃ t b, step s = .next t ∧ capturedView s r s.snd.toNat = some b ∧ t.cap = s.cap + 1 ∧
      t.ph = (if t.cap.toNat = lineBytes s.cfg then .lPost else .lAct) ∧
      t = { s with cap := t.cap, ph := t.ph, fmt := t.fmt, hl := t.hl, snd := t.snd, wire := t.wire, txd := t.txd,
                   txbusy := t.txbusy, lb := t.lb, out := t.out, schedule := rest } ∧
      (s.fmt = false →
        t.fmt = true ∧ t.hl = toggle s.hl ∧ t.snd = s.snd ∧ t.wire = s.wire ∧ t.txd = s.txd ∧ t.txbusy = s.txbusy ∧
        ∀ j, memRead t.lb j = if j = s.snd.toNat then some (fmtBy s.hl b) else capturedView s r j) ∧
      (s.fmt = true → s.txbusy = false →
        t.fmt = false ∧ t.hl = s.hl ∧ t.snd = s.snd + 1 ∧ t.wire = s.wire ++ [b] ∧ t.txd = b ∧ t.txbusy = true ∧
        ∀ j, memRead t.lb j = capturedView s r j) ∧
      (s.fmt = true → s.txbusy = true →
        t.fmt = true ∧ t.hl = s.hl ∧ t.snd = s.snd ∧ t.wire = s.wire ∧ t.txd = s.txd ∧ t.txbusy = true ∧
        ∀ j, memRead t.lb j = capturedView s r j)

/-- The backlog bound (R133): when the active window ends at most half of the line has been sent. -/
def Obligations.BacklogAtWindowEnd : Prop :=
  ∀ s t : State, BlockInv s → s.ph = .lAct → s.cfg.strat = .buf → step s = .next t → t.ph = .lPost →
    t.cap.toNat = 2 * t.cfg.width.toNat ∧ t.snd.toNat ≤ t.cfg.width.toNat

/-- The line of the buffered strategy (R115, R132): from the head of an active window, whatever the link and the other
agents do, a LINE_BUF that ends its line has appended the first 2W edges' bytes, formatted in turn, and nothing else.
That the operation runs the scheduled events is the model's choice (log 19). -/
def Obligations.BufferedLineOnTheWire : Prop :=
  ∀ s t : State, s.ph = .lAct → s.txn = .frame → s.cfg.strat = .buf → s.cfg.width ≠ 0 →
    s.cap = 0 → s.snd = 0 → s.fmt = false → s.hl = .high → (∀ e ∈ s.schedule, isReset e = false) →
    exec .lineBuf s = .next t → t.row ≠ s.row →
    t.row = s.row + 1 ∧ t.wire = s.wire ++ formatLine .high ((rawEdges s.schedule).take (2 * s.cfg.width.toNat))

/-- The buffered strategy over a prompt link with no edge lost (R127, R132): LINE_BUF ends the line, having appended
all its bytes, formatted in turn, and LB holds them. That the operation runs the scheduled events is the model's choice
(log 19). -/
def Obligations.BufferedLineOverPromptLink : Prop :=
  ∀ (s : State) (raw : List Byte), s.ph = .lAct → s.txn = .frame → s.cfg.strat = .buf → s.cfg.width ≠ 0 →
    s.txbusy = false → s.cap = 0 → s.snd = 0 → s.fmt = false → s.hl = .high →
    raw.length = 2 * s.cfg.width.toNat → s.schedule = bufferedWindow s.cfg raw →
    ∃ t, exec .lineBuf s = .next t ∧ t.row = s.row + 1 ∧ t.wire = s.wire ++ formatLine .high raw ∧
      t.ph = (if s.row + 1 = s.cfg.height then .idle else .lPre) ∧ t.schedule = [] ∧
      (∀ i b, (formatLine .high raw)[i]? = some b → memRead t.lb i = some b) ∧
      ∀ i, raw.length ≤ i → memRead t.lb i = memRead s.lb i

/-- The line of the direct strategy over a prompt link with no edge lost (R115, R130, R132, the premise of R184):
LINE_DIR appends the 2W bytes, formatted in turn, and ends the line. That the operation runs the scheduled events is
the model's choice (log 19). -/
def Obligations.DirectLineOnTheWire : Prop :=
  ∀ (s : State) (raw : List Byte), s.ph = .lAct → s.txn = .frame → s.cfg.strat = .dir → s.cfg.width ≠ 0 →
    s.txbusy = false → s.cap = 0 → s.snd = 0 → s.hl = .high → raw.length = 2 * s.cfg.width.toNat →
    s.schedule = directWindow raw →
    ∃ t, exec .lineDir s = .next t ∧ t.row = s.row + 1 ∧ t.wire = s.wire ++ formatLine .high raw ∧
      t.ph = (if s.row + 1 = s.cfg.height then .idle else .lPre) ∧ t.lb = s.lb ∧ t.schedule = []

/-! ## Requests, the arbiter and the frame -/

/-- REQ.FRAME (R141, R142): accepted by an idle block with no trigger pending; else the host holds it and no register
changes. The host's line in State is log 10, the record of who asked log 15: choices of the model. -/
def Obligations.ReqFrameAcceptsOrWaits : Prop :=
  ∀ s : State,
    (s.ph = .idle → s.tpend = false → exec .reqFrame s = .next
      { s with txn := .frame, fcnt := s.fcnt + 1, cks := 0, cidx := 0, ph := .cmd, hostFrame := true,
               reqFrame := false, out := { s.out with ackFrame := true } }) ∧
    (s.ph ≠ .idle ∨ s.tpend = true → exec .reqFrame s = .next { s with reqFrame := true })

/-- FRAME.ACCEPT, DEBUG.ACCEPT and DEBUG.EMPTY (R142, R144, R145), the tails of the requests: the last is acknowledged
and no register changes (the host's line falls with it, log 10). Run alone at an idle block they do not look at R143's
gate, TPEND = 0 and req_frame = 0, which is REQ.DEBUG's: the model's choice (log 20). -/
def Obligations.AcceptSteps : Prop :=
  ∀ (n : BitVec 16) (s : State), s.ph = .idle →
    exec .frameAccept s = .next
      { s with txn := .frame, fcnt := s.fcnt + 1, cks := 0, cidx := 0, ph := .cmd } ∧
    (1 ≤ n.toNat → n.toNat ≤ 254 → exec (.debugAccept n) s = .next
      { s with txn := .debug, dlen := n, cks := 0, cidx := 0, ph := .cmd }) ∧
    (s.reqDebug = none ∨ s.reqDebug = some [] → exec .debugEmpty s = .next
      { s with reqDebug := none, out := { s.out with ackDebug := true } })

/-- REQ.DEBUG (R143, R144, R145): accepted by an idle block with no trigger and no frame request; an empty text is
acknowledged and nothing else; at a busy block, or behind a trigger or a frame request, the host holds it. That the held
text stands in State, that a later text takes its place, and that an accepted one lets the line go whatever it held, is
the model's choice (log 10); that TEXT is taken by value is another (log 11). -/
def Obligations.ReqDebugAcceptsOrWaits : Prop :=
  ∀ (text : List Byte) (s : State), text.length ≤ 254 →
    (s.ph = .idle → s.tpend = false → s.reqFrame = false → text ≠ [] → exec (.reqDebug text) s = .next
      { s with txn := .debug, dlen := BitVec.ofNat 16 text.length, cks := 0, cidx := 0, ph := .cmd, text := text,
               reqDebug := none, out := { s.out with ackDebug := true } }) ∧
    (s.ph = .idle → s.tpend = false → s.reqFrame = false → text = [] → exec (.reqDebug text) s = .next
      { s with reqDebug := none, out := { s.out with ackDebug := true } }) ∧
    (s.ph ≠ .idle ∨ s.tpend = true ∨ s.reqFrame = true →
      exec (.reqDebug text) s = .next { s with reqDebug := some text })

/-- TICK (R146): `TPEND <- 1`, in every phase, and nothing else. TICK.ACCEPT (R147, R170): an idle block accepts the
pending trigger's frame; that it records who asked is the model's choice (log 15). -/
def Obligations.TickAndItsAcceptance : Prop :=
  ∀ s : State, exec .tick s = .next { s with tpend := true } ∧
    (s.ph = .idle → s.tpend = true → exec .tickAccept s = .next
      { s with tpend := false, txn := .frame, fcnt := s.fcnt + 1, cks := 0, cidx := 0, ph := .cmd,
               hostFrame := false })

/-- Priority at an idle block (R148, R73, R156): a step of SEQ, scheduled or with nothing scheduled, accepts the pending
trigger, then the held frame request, then the held debug request; with none of them nothing changes. That a held
request is accepted in a step of SEQ is the model's choice (log 1, log 10). -/
def Obligations.ArbiterPriority : Prop :=
  ∀ s u : State, s.op = [] → s.ph = .idle →
    ((s.schedule = [] ∧ u = s.quiet) ∨ ∃ rest, s.schedule = .seq :: rest ∧ u = s.taking rest) →
    (s.tpend = true → step s = exec .tickAccept u) ∧
    (s.tpend = false → s.reqFrame = true → step s = exec .reqFrame u) ∧
    (∀ text, s.tpend = false → s.reqFrame = false → s.reqDebug = some text → step s = exec (.reqDebug text) u) ∧
    (s.tpend = false → s.reqFrame = false → s.reqDebug = none → step s = .next u)

/-- No request is accepted inside a transaction (R140, R154): a step of the agents from PH ≠ IDLE leaves FCNT, DLEN and
TEXT as they are and acknowledges nothing, and TXN stays or becomes NONE with the return to IDLE. -/
def Obligations.NothingAcceptedWhileBusy : Prop :=
  ∀ s t : State, s.op = [] → s.ph ≠ .idle → noResetNext s → step s = .next t →
    t.fcnt = s.fcnt ∧ t.dlen = s.dlen ∧ t.text = s.text ∧ t.out.ackFrame = false ∧ t.out.ackDebug = false ∧
    (t.txn = s.txn ∨ (t.txn = .none ∧ t.ph = .idle))

/-- FCNT counts the frames begun (R154): a step of the agents changes FCNT only by 1 and only in a step from IDLE that
begins a frame. -/
def Obligations.FrameCounterCountsAccepts : Prop :=
  ∀ s t : State, s.op = [] → noResetNext s → step s = .next t →
    (t.fcnt = s.fcnt ∧ ¬(s.ph = .idle ∧ t.ph = .cmd ∧ t.txn = .frame)) ∨
    (s.ph = .idle ∧ t.ph = .cmd ∧ t.txn = .frame ∧ t.fcnt = s.fcnt + 1)

/-- A Tick and any other event of a running transaction may come in either order (R169 b): the two states differ in the
outputs of their last steps only. -/
def Obligations.TickCommutes : Prop :=
  ∀ (s : State) (e : Event) (rest : List Event) (t : State), s.op = [] → s.ph ≠ .idle → isReset e = false →
    Sys2Proof.core.run 2 { s with schedule := e :: .tick :: rest } = .next t →
    ∃ u : State, Sys2Proof.core.run 2 { s with schedule := .tick :: e :: rest } = .next u ∧ u = { t with out := u.out }

/-- A whole frame over a prompt link with no edge lost, under either strategy (R149, R155, R60, R69): FRAME from an idle
block emits the frame-start command of CFG and then every line, formatted, and returns to IDLE; LB is not written under
DIR, nor outside the line under BUF. That the operation runs the scheduled events is the model's choice (log 19). -/
def Obligations.FrameEndToEnd : Prop :=
  ∀ (s : State) (raws : List (List Byte)), s.ph = .idle → s.txbusy = false →
    raws.length = s.cfg.height.toNat → (∀ raw ∈ raws, raw.length = 2 * s.cfg.width.toNat) →
    (s.cfg.strat = .dir → s.schedule = commandEvents 7 ++ raws.flatMap directLine →
      ∃ t, exec .frame s = .next t ∧ t.ph = .idle ∧ t.txn = .none ∧ t.fcnt = s.fcnt + 1 ∧ t.lb = s.lb ∧
        t.wire = s.wire ++ (frameCommand s.cfg ++ raws.flatMap (formatLine .high))) ∧
    (s.cfg.strat = .buf → s.schedule = commandEvents 7 ++ raws.flatMap (bufferedLine s.cfg) →
      ∃ t, exec .frame s = .next t ∧ t.ph = .idle ∧ t.txn = .none ∧ t.fcnt = s.fcnt + 1 ∧
        t.wire = s.wire ++ (frameCommand s.cfg ++ raws.flatMap (formatLine .high)) ∧
        ∀ i, lineBytes s.cfg ≤ i → memRead t.lb i = memRead s.lb i)

/-- The sequences run to completion or stall (R171, R97): in a state of the invariant, with no change of the
configuration scheduled, each composite operation that is at hand answers a next state of the invariant, in which its
sequence has ended or SEQ waits with no event left. That it runs the scheduled events, and answers a next state in the
middle of its sequence, is the model's choice (log 19). -/
def Obligations.CompositesCompleteOrStall : Prop :=
  ∀ s : State, BlockInv s → (∀ e ∈ s.schedule, isConfig e = false) →
    (∀ w h f, s.ph = .cmd → s.txn = .frame → (w, h, f) = frameFields s.cfg →
      ∃ t, exec (.cmdNewframe w h f) s = .next t ∧ BlockInv t ∧
        (emitting .frame t = false ∨ (t.schedule = [] ∧ seqEnabled t = false))) ∧
    (s.ph = .cmd → s.txn = .debug →
      ∃ t, exec (.cmdDebug s.text) s = .next t ∧ BlockInv t ∧
        (emitting .debug t = false ∨ (t.schedule = [] ∧ seqEnabled t = false))) ∧
    (inLine s = true → s.cfg.strat = .buf →
      ∃ t, exec .lineBuf s = .next t ∧ BlockInv t ∧
        (runningLine s.row t = false ∨ (t.schedule = [] ∧ seqEnabled t = false))) ∧
    (inLine s = true → s.cfg.strat = .dir →
      ∃ t, exec .lineDir s = .next t ∧ BlockInv t ∧
        (runningLine s.row t = false ∨ (t.schedule = [] ∧ seqEnabled t = false))) ∧
    (s.ph = .idle ∨ s.txn = .frame →
      ∃ t, exec .frame s = .next t ∧ BlockInv t ∧
        (runningFrame t = false ∨ (t.schedule = [] ∧ seqEnabled t = false)))

/-! ## Steps of the machine -/

/-- A step runs the operation that the word at the port decodes to, on the state without the word and with no output
raised; an operation that waits for the link leaves the word and lets the agents move (log 2, log 25). -/
def Obligations.StepRunsTheWord : Prop :=
  ∀ (s : State) (i : Instr) (rest : List Byte), decode s.op = .ok (i, rest) → wellFormed i = true →
    (waitsForLink i s = false → step s = exec i { s with op := [], out := Outputs.quiet }) ∧
    (waitsForLink i s = true → step s = blockStep s)

/-- With no word at the port a scheduled event runs its operation of the table (R156). -/
def Obligations.EventsRunTheirOperations : Prop :=
  ∀ (s : State) (e : Event) (rest : List Event), s.op = [] → s.schedule = e :: rest →
    (e = .linkDone → step s = exec .linkDone (s.taking rest)) ∧
    (e = .tick → step s = exec .tick (s.taking rest)) ∧
    (e = .reset → step s = exec .reset (s.taking rest)) ∧
    (e = .reqFrame → step s = exec .reqFrame (s.taking rest)) ∧
    (∀ text, e = .reqDebug text → step s = exec (.reqDebug text) (s.taking rest)) ∧
    (e = .padDone → s.ph = .lPre → step s = exec .padPre (s.taking rest)) ∧
    (e = .padDone → s.ph = .lPost → step s = exec .padPost (s.taking rest)) ∧
    (∀ r, e = .edge r → s.ph = .lAct → s.cfg.strat = .dir → step s = exec (.dirRead r) (s.taking rest)) ∧
    (∀ r, e = .edge r → s.ph = .lAct → s.cfg.strat = .buf → step s =
      andThen (andThen (exec (.edgeCapture r) (s.taking rest)) (fun u => exec (workInstr (workUnit u)) u))
        (exec .edgeEnd))

/-- A step of SEQ, scheduled or with nothing scheduled, runs the operation of its phase (R156): in IDLE the one that the
request vector grants (R73; a held request in a step of SEQ is log 1), in L_PRE, L_ACT and L_POST none. -/
def Obligations.SequencerRunsItsOperation : Prop :=
  ∀ s u : State, s.op = [] →
    ((s.schedule = [] ∧ u = s.quiet) ∨ ∃ rest, s.schedule = .seq :: rest ∧ u = s.taking rest) →
    (s.ph = .idle → grant s = .tick → step s = exec .tickAccept u) ∧
    (s.ph = .idle → grant s = .frame → step s = exec .reqFrame u) ∧
    (∀ text, s.ph = .idle → grant s = .debug → s.reqDebug = some text → step s = exec (.reqDebug text) u) ∧
    (s.ph = .idle → grant s = .idle → step s = .next u) ∧
    (s.ph = .cmd → step s = exec .cmdByte u) ∧
    (s.ph = .lTx → step s = exec .dirSend u) ∧
    (∀ i, s.ph = .lDrain → drainInstr (drainUnit s) = some i → step s = exec i u) ∧
    (s.ph = .lDrain → drainInstr (drainUnit s) = none → step s = .next u) ∧
    (s.ph = .lPre ∨ s.ph = .lAct ∨ s.ph = .lPost → step s = .next u)

/-- Events outside their phase change nothing (R134). -/
def Obligations.EventsOutsideTheirPhase : Prop :=
  ∀ (s : State) (rest : List Event), s.op = [] →
    (∀ r, s.schedule = .edge r :: rest → s.ph ≠ .lAct → step s = .next (s.taking rest)) ∧
    (s.schedule = .padDone :: rest → s.ph ≠ .lPre → s.ph ≠ .lPost → step s = .next (s.taking rest))

/-- An operation outside the selection of its row is no step of the block (R6, 30_encoding.md section 7); that it then
answers the same state, and where the tails of other steps run alone, is the model's choice (log 4, 18, 20). The forms
that wait for the link with TXBUSY = 1 are in HoldsWhileLinkBusy, LINK_DONE with none in flight in LinkDoneReleases,
EDGE.END before the end of the window in SkipAndWindowEnd. -/
def Obligations.NotSelectedChangesNothing : Prop :=
  ∀ (s : State) (r : Byte) (n : BitVec 16) (w h : BitVec 10) (f : BitVec 4) (text : List Byte),
    (s.ph ≠ .cmd → exec .cmdByte s = .next s) ∧
    (s.ph ≠ .cmd ∨ s.txn ≠ .frame ∨ (w, h, f) ≠ frameFields s.cfg → exec (.cmdNewframe w h f) s = .next s) ∧
    (s.ph ≠ .cmd ∨ s.txn ≠ .debug ∨ text ≠ s.text → text.length ≤ 254 → exec (.cmdDebug text) s = .next s) ∧
    (s.ph ≠ .cmd → s.ph ≠ .lDrain → exec .lineStart s = .next s) ∧
    (s.ph = .cmd → s.cidx ≠ 6 ∨ s.txbusy = true → exec .lineStart s = .next s) ∧
    (s.ph = .lDrain → s.snd.toNat ≠ 2 * s.cfg.width.toNat → exec .lineStart s = .next s) ∧
    (s.txn ≠ .frame ∨ s.cfg.height.toNat ≤ s.row.toNat → exec .lineStart s = .next s) ∧
    (s.ph ≠ .lPre → exec .padPre s = .next s) ∧
    (s.ph ≠ .lPost → exec .padPost s = .next s) ∧
    (s.ph ≠ .lAct ∨ s.cfg.strat = .dir → exec (.edgeCapture r) s = .next s ∧ exec .edgeFormat s = .next s ∧
      exec .edgeSend s = .next s ∧ exec .edgeEnd s = .next s) ∧
    exec .edgeSkip s = .next s ∧
    (s.fmt = true → exec .edgeFormat s = .next s ∧ exec .drainFormat s = .next s) ∧
    (s.fmt = false ∨ s.txbusy = true → exec .edgeSend s = .next s ∧ exec .drainSend s = .next s) ∧
    (s.ph ≠ .lDrain ∨ 2 * s.cfg.width.toNat ≤ s.snd.toNat →
      exec .drainFormat s = .next s ∧ exec .drainSend s = .next s) ∧
    (s.ph ≠ .lDrain ∨ s.snd.toNat ≠ 2 * s.cfg.width.toNat → exec .lineEnd s = .next s) ∧
    (s.ph ≠ .lAct ∨ s.cfg.strat = .buf → exec (.dirRead r) s = .next s) ∧
    (s.ph ≠ .lTx → exec .dirSend s = .next s) ∧
    (inLine s = false ∨ s.txn ≠ .frame ∨ s.cfg.strat = .dir → exec .lineBuf s = .next s) ∧
    (inLine s = false ∨ s.txn ≠ .frame ∨ s.cfg.strat = .buf → exec .lineDir s = .next s) ∧
    (s.ph ≠ .idle → exec .frameAccept s = .next s) ∧
    (s.ph ≠ .idle ∨ n = 0 → exec (.debugAccept n) s = .next s) ∧
    (s.ph ≠ .idle ∨ (s.reqDebug = some text ∧ text ≠ []) → exec .debugEmpty s = .next s) ∧
    (s.ph ≠ .idle ∨ s.tpend = false → exec .tickAccept s = .next s) ∧
    (s.ph ≠ .idle → s.txn ≠ .frame → exec .frame s = .next s)

/-- CFG is constant from one reset to the next (R4): no step of the agents but a reset writes it, and a reset takes it
from the configuration inputs (R34). -/
def Obligations.ConfigurationConstant : Prop :=
  ∀ s t : State, s.op = [] → step s = .next t →
    (noResetNext s → t.cfg = s.cfg) ∧ (¬ noResetNext s → t.cfg = s.cfgIn)

/-- A change of the configuration inputs in a transaction has no meaning (U9, R189); at an idle block it waits for the
next reset (the model's choice, log 9). -/
def Obligations.ConfigurationInputs : Prop :=
  ∀ (s : State) (c : Cfg) (rest : List Event), s.op = [] → s.schedule = .config c :: rest →
    (s.ph ≠ .idle → step s = .refused .configChanged) ∧
    (s.ph = .idle → step s = .next { s.taking rest with cfgIn := c })

/-! ## Reset -/

/-- RESET (R180, R34): in every phase, every register to its reset value; LB holds no known byte; TMP and TXD are left
unspecified, so nothing is said of them here; CFG takes the configuration inputs. The environment stays (log 10). -/
def Obligations.ResetFromAnyState : Prop :=
  ∀ s : State, ∃ t, exec .reset s = .next t ∧
    t = { s with ph := .idle, txn := .none, cidx := 0, cks := 0, dlen := 0, row := 0, cap := 0, snd := 0, fmt := false,
                 hl := .high, tmp := t.tmp, txd := t.txd, txbusy := false, tpend := false, wire := [], fcnt := 0,
                 lb := [], cfg := s.cfgIn, hostFrame := false, out := Outputs.quiet, draws := s.draws + 2 } ∧
    ∀ i, memRead t.lb i = none

/-- The state after reset has the values that R34 gives, and meets the invariant and the wire's grammar. -/
def Obligations.ResetStateMeetsInvariant : Prop :=
  State.reset.ph = .idle ∧ State.reset.txn = .none ∧ State.reset.cidx = 0 ∧ State.reset.cks = 0 ∧
  State.reset.dlen = 0 ∧ State.reset.row = 0 ∧ State.reset.cap = 0 ∧ State.reset.snd = 0 ∧ State.reset.fmt = false ∧
  State.reset.hl = .high ∧ State.reset.txbusy = false ∧ State.reset.tpend = false ∧ State.reset.fcnt = 0 ∧
  State.reset.wire = [] ∧ (∀ i, memRead State.reset.lb i = none) ∧ BlockInv State.reset ∧ WireOk State.reset

/-! ## Headline results -/

/-- Every step of the agents keeps the invariant (R13, R17, R31, R49, R131). -/
def Obligations.StepKeepsInvariant : Prop :=
  ∀ s t : State, BlockInv s → step s = .next t → BlockInv t

/-- No state of the invariant faults (R49): no rule reads LB outside its size or above CAP, TEXT beyond its length, or
an undefined command byte. -/
def Obligations.InvariantNeverFaults : Prop :=
  ∀ s : State, BlockInv s → ∀ f, step s ≠ .fault f

/-- Every step of the agents keeps the grammar of the wire (R60, R69, R72): complete commands and whole pixel streams,
then one unfinished unit, every pixel byte legal for its place and so never `0x00`. -/
def Obligations.StepKeepsWireGrammar : Prop :=
  ∀ s t : State, BlockInv s → WireOk s → step s = .next t → WireOk t
end

