-- ==== Sys2Proof/Laws/State.lean ====
section
/-! SUPPORT. Laws/State.lean: for each named update of State, what it does to each field. -/

namespace Sys2Proof.Machine

open Sys2Proof

variable (s : State)

/-! ### quiet -/

@[simp] theorem quiet_ph : (s.quiet).ph = s.ph := rfl
@[simp] theorem quiet_txn : (s.quiet).txn = s.txn := rfl
@[simp] theorem quiet_cidx : (s.quiet).cidx = s.cidx := rfl
@[simp] theorem quiet_cks : (s.quiet).cks = s.cks := rfl
@[simp] theorem quiet_dlen : (s.quiet).dlen = s.dlen := rfl
@[simp] theorem quiet_row : (s.quiet).row = s.row := rfl
@[simp] theorem quiet_cap : (s.quiet).cap = s.cap := rfl
@[simp] theorem quiet_snd : (s.quiet).snd = s.snd := rfl
@[simp] theorem quiet_fmt : (s.quiet).fmt = s.fmt := rfl
@[simp] theorem quiet_hl : (s.quiet).hl = s.hl := rfl
@[simp] theorem quiet_tmp : (s.quiet).tmp = s.tmp := rfl
@[simp] theorem quiet_txd : (s.quiet).txd = s.txd := rfl
@[simp] theorem quiet_txbusy : (s.quiet).txbusy = s.txbusy := rfl
@[simp] theorem quiet_tpend : (s.quiet).tpend = s.tpend := rfl
@[simp] theorem quiet_wire : (s.quiet).wire = s.wire := rfl
@[simp] theorem quiet_fcnt : (s.quiet).fcnt = s.fcnt := rfl
@[simp] theorem quiet_lb : (s.quiet).lb = s.lb := rfl
@[simp] theorem quiet_cfg : (s.quiet).cfg = s.cfg := rfl
@[simp] theorem quiet_cfgIn : (s.quiet).cfgIn = s.cfgIn := rfl
@[simp] theorem quiet_reqFrame : (s.quiet).reqFrame = s.reqFrame := rfl
@[simp] theorem quiet_reqDebug : (s.quiet).reqDebug = s.reqDebug := rfl
@[simp] theorem quiet_text : (s.quiet).text = s.text := rfl
@[simp] theorem quiet_hostFrame : (s.quiet).hostFrame = s.hostFrame := rfl
@[simp] theorem quiet_out : (s.quiet).out = Outputs.quiet := rfl
@[simp] theorem quiet_schedule : (s.quiet).schedule = s.schedule := rfl
@[simp] theorem quiet_op : (s.quiet).op = s.op := rfl
@[simp] theorem quiet_draws : (s.quiet).draws = s.draws := rfl

/-! ### returns -/

@[simp] theorem returns_ph (r : Result) : (s.returns r).ph = s.ph := rfl
@[simp] theorem returns_txn (r : Result) : (s.returns r).txn = s.txn := rfl
@[simp] theorem returns_cidx (r : Result) : (s.returns r).cidx = s.cidx := rfl
@[simp] theorem returns_cks (r : Result) : (s.returns r).cks = s.cks := rfl
@[simp] theorem returns_dlen (r : Result) : (s.returns r).dlen = s.dlen := rfl
@[simp] theorem returns_row (r : Result) : (s.returns r).row = s.row := rfl
@[simp] theorem returns_cap (r : Result) : (s.returns r).cap = s.cap := rfl
@[simp] theorem returns_snd (r : Result) : (s.returns r).snd = s.snd := rfl
@[simp] theorem returns_fmt (r : Result) : (s.returns r).fmt = s.fmt := rfl
@[simp] theorem returns_hl (r : Result) : (s.returns r).hl = s.hl := rfl
@[simp] theorem returns_tmp (r : Result) : (s.returns r).tmp = s.tmp := rfl
@[simp] theorem returns_txd (r : Result) : (s.returns r).txd = s.txd := rfl
@[simp] theorem returns_txbusy (r : Result) : (s.returns r).txbusy = s.txbusy := rfl
@[simp] theorem returns_tpend (r : Result) : (s.returns r).tpend = s.tpend := rfl
@[simp] theorem returns_wire (r : Result) : (s.returns r).wire = s.wire := rfl
@[simp] theorem returns_fcnt (r : Result) : (s.returns r).fcnt = s.fcnt := rfl
@[simp] theorem returns_lb (r : Result) : (s.returns r).lb = s.lb := rfl
@[simp] theorem returns_cfg (r : Result) : (s.returns r).cfg = s.cfg := rfl
@[simp] theorem returns_cfgIn (r : Result) : (s.returns r).cfgIn = s.cfgIn := rfl
@[simp] theorem returns_reqFrame (r : Result) : (s.returns r).reqFrame = s.reqFrame := rfl
@[simp] theorem returns_reqDebug (r : Result) : (s.returns r).reqDebug = s.reqDebug := rfl
@[simp] theorem returns_text (r : Result) : (s.returns r).text = s.text := rfl
@[simp] theorem returns_hostFrame (r : Result) : (s.returns r).hostFrame = s.hostFrame := rfl
@[simp] theorem returns_out (r : Result) : (s.returns r).out = { s.out with result := r } := rfl
@[simp] theorem returns_schedule (r : Result) : (s.returns r).schedule = s.schedule := rfl
@[simp] theorem returns_op (r : Result) : (s.returns r).op = s.op := rfl
@[simp] theorem returns_draws (r : Result) : (s.returns r).draws = s.draws := rfl

/-! ### presentFrame -/

@[simp] theorem presentFrame_ph : (s.presentFrame).ph = s.ph := rfl
@[simp] theorem presentFrame_txn : (s.presentFrame).txn = s.txn := rfl
@[simp] theorem presentFrame_cidx : (s.presentFrame).cidx = s.cidx := rfl
@[simp] theorem presentFrame_cks : (s.presentFrame).cks = s.cks := rfl
@[simp] theorem presentFrame_dlen : (s.presentFrame).dlen = s.dlen := rfl
@[simp] theorem presentFrame_row : (s.presentFrame).row = s.row := rfl
@[simp] theorem presentFrame_cap : (s.presentFrame).cap = s.cap := rfl
@[simp] theorem presentFrame_snd : (s.presentFrame).snd = s.snd := rfl
@[simp] theorem presentFrame_fmt : (s.presentFrame).fmt = s.fmt := rfl
@[simp] theorem presentFrame_hl : (s.presentFrame).hl = s.hl := rfl
@[simp] theorem presentFrame_tmp : (s.presentFrame).tmp = s.tmp := rfl
@[simp] theorem presentFrame_txd : (s.presentFrame).txd = s.txd := rfl
@[simp] theorem presentFrame_txbusy : (s.presentFrame).txbusy = s.txbusy := rfl
@[simp] theorem presentFrame_tpend : (s.presentFrame).tpend = s.tpend := rfl
@[simp] theorem presentFrame_wire : (s.presentFrame).wire = s.wire := rfl
@[simp] theorem presentFrame_fcnt : (s.presentFrame).fcnt = s.fcnt := rfl
@[simp] theorem presentFrame_lb : (s.presentFrame).lb = s.lb := rfl
@[simp] theorem presentFrame_cfg : (s.presentFrame).cfg = s.cfg := rfl
@[simp] theorem presentFrame_cfgIn : (s.presentFrame).cfgIn = s.cfgIn := rfl
@[simp] theorem presentFrame_reqFrame : (s.presentFrame).reqFrame = true := rfl
@[simp] theorem presentFrame_reqDebug : (s.presentFrame).reqDebug = s.reqDebug := rfl
@[simp] theorem presentFrame_text : (s.presentFrame).text = s.text := rfl
@[simp] theorem presentFrame_hostFrame : (s.presentFrame).hostFrame = s.hostFrame := rfl
@[simp] theorem presentFrame_out : (s.presentFrame).out = s.out := rfl
@[simp] theorem presentFrame_schedule : (s.presentFrame).schedule = s.schedule := rfl
@[simp] theorem presentFrame_op : (s.presentFrame).op = s.op := rfl
@[simp] theorem presentFrame_draws : (s.presentFrame).draws = s.draws := rfl

/-! ### presentDebug -/

@[simp] theorem presentDebug_ph (t : List Byte) : (s.presentDebug t).ph = s.ph := rfl
@[simp] theorem presentDebug_txn (t : List Byte) : (s.presentDebug t).txn = s.txn := rfl
@[simp] theorem presentDebug_cidx (t : List Byte) : (s.presentDebug t).cidx = s.cidx := rfl
@[simp] theorem presentDebug_cks (t : List Byte) : (s.presentDebug t).cks = s.cks := rfl
@[simp] theorem presentDebug_dlen (t : List Byte) : (s.presentDebug t).dlen = s.dlen := rfl
@[simp] theorem presentDebug_row (t : List Byte) : (s.presentDebug t).row = s.row := rfl
@[simp] theorem presentDebug_cap (t : List Byte) : (s.presentDebug t).cap = s.cap := rfl
@[simp] theorem presentDebug_snd (t : List Byte) : (s.presentDebug t).snd = s.snd := rfl
@[simp] theorem presentDebug_fmt (t : List Byte) : (s.presentDebug t).fmt = s.fmt := rfl
@[simp] theorem presentDebug_hl (t : List Byte) : (s.presentDebug t).hl = s.hl := rfl
@[simp] theorem presentDebug_tmp (t : List Byte) : (s.presentDebug t).tmp = s.tmp := rfl
@[simp] theorem presentDebug_txd (t : List Byte) : (s.presentDebug t).txd = s.txd := rfl
@[simp] theorem presentDebug_txbusy (t : List Byte) : (s.presentDebug t).txbusy = s.txbusy := rfl
@[simp] theorem presentDebug_tpend (t : List Byte) : (s.presentDebug t).tpend = s.tpend := rfl
@[simp] theorem presentDebug_wire (t : List Byte) : (s.presentDebug t).wire = s.wire := rfl
@[simp] theorem presentDebug_fcnt (t : List Byte) : (s.presentDebug t).fcnt = s.fcnt := rfl
@[simp] theorem presentDebug_lb (t : List Byte) : (s.presentDebug t).lb = s.lb := rfl
@[simp] theorem presentDebug_cfg (t : List Byte) : (s.presentDebug t).cfg = s.cfg := rfl
@[simp] theorem presentDebug_cfgIn (t : List Byte) : (s.presentDebug t).cfgIn = s.cfgIn := rfl
@[simp] theorem presentDebug_reqFrame (t : List Byte) : (s.presentDebug t).reqFrame = s.reqFrame := rfl
@[simp] theorem presentDebug_reqDebug (t : List Byte) : (s.presentDebug t).reqDebug = some t := rfl
@[simp] theorem presentDebug_text (t : List Byte) : (s.presentDebug t).text = s.text := rfl
@[simp] theorem presentDebug_hostFrame (t : List Byte) : (s.presentDebug t).hostFrame = s.hostFrame := rfl
@[simp] theorem presentDebug_out (t : List Byte) : (s.presentDebug t).out = s.out := rfl
@[simp] theorem presentDebug_schedule (t : List Byte) : (s.presentDebug t).schedule = s.schedule := rfl
@[simp] theorem presentDebug_op (t : List Byte) : (s.presentDebug t).op = s.op := rfl
@[simp] theorem presentDebug_draws (t : List Byte) : (s.presentDebug t).draws = s.draws := rfl

/-! ### ackFrame -/

@[simp] theorem ackFrame_ph : (s.ackFrame).ph = s.ph := rfl
@[simp] theorem ackFrame_txn : (s.ackFrame).txn = s.txn := rfl
@[simp] theorem ackFrame_cidx : (s.ackFrame).cidx = s.cidx := rfl
@[simp] theorem ackFrame_cks : (s.ackFrame).cks = s.cks := rfl
@[simp] theorem ackFrame_dlen : (s.ackFrame).dlen = s.dlen := rfl
@[simp] theorem ackFrame_row : (s.ackFrame).row = s.row := rfl
@[simp] theorem ackFrame_cap : (s.ackFrame).cap = s.cap := rfl
@[simp] theorem ackFrame_snd : (s.ackFrame).snd = s.snd := rfl
@[simp] theorem ackFrame_fmt : (s.ackFrame).fmt = s.fmt := rfl
@[simp] theorem ackFrame_hl : (s.ackFrame).hl = s.hl := rfl
@[simp] theorem ackFrame_tmp : (s.ackFrame).tmp = s.tmp := rfl
@[simp] theorem ackFrame_txd : (s.ackFrame).txd = s.txd := rfl
@[simp] theorem ackFrame_txbusy : (s.ackFrame).txbusy = s.txbusy := rfl
@[simp] theorem ackFrame_tpend : (s.ackFrame).tpend = s.tpend := rfl
@[simp] theorem ackFrame_wire : (s.ackFrame).wire = s.wire := rfl
@[simp] theorem ackFrame_fcnt : (s.ackFrame).fcnt = s.fcnt := rfl
@[simp] theorem ackFrame_lb : (s.ackFrame).lb = s.lb := rfl
@[simp] theorem ackFrame_cfg : (s.ackFrame).cfg = s.cfg := rfl
@[simp] theorem ackFrame_cfgIn : (s.ackFrame).cfgIn = s.cfgIn := rfl
@[simp] theorem ackFrame_reqFrame : (s.ackFrame).reqFrame = false := rfl
@[simp] theorem ackFrame_reqDebug : (s.ackFrame).reqDebug = s.reqDebug := rfl
@[simp] theorem ackFrame_text : (s.ackFrame).text = s.text := rfl
@[simp] theorem ackFrame_hostFrame : (s.ackFrame).hostFrame = s.hostFrame := rfl
@[simp] theorem ackFrame_out : (s.ackFrame).out = { s.out with ackFrame := true } := rfl
@[simp] theorem ackFrame_schedule : (s.ackFrame).schedule = s.schedule := rfl
@[simp] theorem ackFrame_op : (s.ackFrame).op = s.op := rfl
@[simp] theorem ackFrame_draws : (s.ackFrame).draws = s.draws := rfl

/-! ### ackDebug -/

@[simp] theorem ackDebug_ph : (s.ackDebug).ph = s.ph := rfl
@[simp] theorem ackDebug_txn : (s.ackDebug).txn = s.txn := rfl
@[simp] theorem ackDebug_cidx : (s.ackDebug).cidx = s.cidx := rfl
@[simp] theorem ackDebug_cks : (s.ackDebug).cks = s.cks := rfl
@[simp] theorem ackDebug_dlen : (s.ackDebug).dlen = s.dlen := rfl
@[simp] theorem ackDebug_row : (s.ackDebug).row = s.row := rfl
@[simp] theorem ackDebug_cap : (s.ackDebug).cap = s.cap := rfl
@[simp] theorem ackDebug_snd : (s.ackDebug).snd = s.snd := rfl
@[simp] theorem ackDebug_fmt : (s.ackDebug).fmt = s.fmt := rfl
@[simp] theorem ackDebug_hl : (s.ackDebug).hl = s.hl := rfl
@[simp] theorem ackDebug_tmp : (s.ackDebug).tmp = s.tmp := rfl
@[simp] theorem ackDebug_txd : (s.ackDebug).txd = s.txd := rfl
@[simp] theorem ackDebug_txbusy : (s.ackDebug).txbusy = s.txbusy := rfl
@[simp] theorem ackDebug_tpend : (s.ackDebug).tpend = s.tpend := rfl
@[simp] theorem ackDebug_wire : (s.ackDebug).wire = s.wire := rfl
@[simp] theorem ackDebug_fcnt : (s.ackDebug).fcnt = s.fcnt := rfl
@[simp] theorem ackDebug_lb : (s.ackDebug).lb = s.lb := rfl
@[simp] theorem ackDebug_cfg : (s.ackDebug).cfg = s.cfg := rfl
@[simp] theorem ackDebug_cfgIn : (s.ackDebug).cfgIn = s.cfgIn := rfl
@[simp] theorem ackDebug_reqFrame : (s.ackDebug).reqFrame = s.reqFrame := rfl
@[simp] theorem ackDebug_reqDebug : (s.ackDebug).reqDebug = none := rfl
@[simp] theorem ackDebug_text : (s.ackDebug).text = s.text := rfl
@[simp] theorem ackDebug_hostFrame : (s.ackDebug).hostFrame = s.hostFrame := rfl
@[simp] theorem ackDebug_out : (s.ackDebug).out = { s.out with ackDebug := true } := rfl
@[simp] theorem ackDebug_schedule : (s.ackDebug).schedule = s.schedule := rfl
@[simp] theorem ackDebug_op : (s.ackDebug).op = s.op := rfl
@[simp] theorem ackDebug_draws : (s.ackDebug).draws = s.draws := rfl

/-! ### handOver -/

@[simp] theorem handOver_ph (b : Byte) : (s.handOver b).ph = s.ph := rfl
@[simp] theorem handOver_txn (b : Byte) : (s.handOver b).txn = s.txn := rfl
@[simp] theorem handOver_cidx (b : Byte) : (s.handOver b).cidx = s.cidx := rfl
@[simp] theorem handOver_cks (b : Byte) : (s.handOver b).cks = s.cks := rfl
@[simp] theorem handOver_dlen (b : Byte) : (s.handOver b).dlen = s.dlen := rfl
@[simp] theorem handOver_row (b : Byte) : (s.handOver b).row = s.row := rfl
@[simp] theorem handOver_cap (b : Byte) : (s.handOver b).cap = s.cap := rfl
@[simp] theorem handOver_snd (b : Byte) : (s.handOver b).snd = s.snd := rfl
@[simp] theorem handOver_fmt (b : Byte) : (s.handOver b).fmt = s.fmt := rfl
@[simp] theorem handOver_hl (b : Byte) : (s.handOver b).hl = s.hl := rfl
@[simp] theorem handOver_tmp (b : Byte) : (s.handOver b).tmp = s.tmp := rfl
@[simp] theorem handOver_txd (b : Byte) : (s.handOver b).txd = b := rfl
@[simp] theorem handOver_txbusy (b : Byte) : (s.handOver b).txbusy = true := rfl
@[simp] theorem handOver_tpend (b : Byte) : (s.handOver b).tpend = s.tpend := rfl
@[simp] theorem handOver_wire (b : Byte) : (s.handOver b).wire = s.wire ++ [b] := rfl
@[simp] theorem handOver_fcnt (b : Byte) : (s.handOver b).fcnt = s.fcnt := rfl
@[simp] theorem handOver_lb (b : Byte) : (s.handOver b).lb = s.lb := rfl
@[simp] theorem handOver_cfg (b : Byte) : (s.handOver b).cfg = s.cfg := rfl
@[simp] theorem handOver_cfgIn (b : Byte) : (s.handOver b).cfgIn = s.cfgIn := rfl
@[simp] theorem handOver_reqFrame (b : Byte) : (s.handOver b).reqFrame = s.reqFrame := rfl
@[simp] theorem handOver_reqDebug (b : Byte) : (s.handOver b).reqDebug = s.reqDebug := rfl
@[simp] theorem handOver_text (b : Byte) : (s.handOver b).text = s.text := rfl
@[simp] theorem handOver_hostFrame (b : Byte) : (s.handOver b).hostFrame = s.hostFrame := rfl
@[simp] theorem handOver_out (b : Byte) : (s.handOver b).out = { s.out with txValid := true } := rfl
@[simp] theorem handOver_schedule (b : Byte) : (s.handOver b).schedule = s.schedule := rfl
@[simp] theorem handOver_op (b : Byte) : (s.handOver b).op = s.op := rfl
@[simp] theorem handOver_draws (b : Byte) : (s.handOver b).draws = s.draws := rfl

/-! ### accumulate -/

@[simp] theorem accumulate_ph (b : Byte) : (s.accumulate b).ph = s.ph := rfl
@[simp] theorem accumulate_txn (b : Byte) : (s.accumulate b).txn = s.txn := rfl
@[simp] theorem accumulate_cidx (b : Byte) : (s.accumulate b).cidx = s.cidx := rfl
@[simp] theorem accumulate_cks (b : Byte) : (s.accumulate b).cks = s.cks ^^^ b := rfl
@[simp] theorem accumulate_dlen (b : Byte) : (s.accumulate b).dlen = s.dlen := rfl
@[simp] theorem accumulate_row (b : Byte) : (s.accumulate b).row = s.row := rfl
@[simp] theorem accumulate_cap (b : Byte) : (s.accumulate b).cap = s.cap := rfl
@[simp] theorem accumulate_snd (b : Byte) : (s.accumulate b).snd = s.snd := rfl
@[simp] theorem accumulate_fmt (b : Byte) : (s.accumulate b).fmt = s.fmt := rfl
@[simp] theorem accumulate_hl (b : Byte) : (s.accumulate b).hl = s.hl := rfl
@[simp] theorem accumulate_tmp (b : Byte) : (s.accumulate b).tmp = s.tmp := rfl
@[simp] theorem accumulate_txd (b : Byte) : (s.accumulate b).txd = s.txd := rfl
@[simp] theorem accumulate_txbusy (b : Byte) : (s.accumulate b).txbusy = s.txbusy := rfl
@[simp] theorem accumulate_tpend (b : Byte) : (s.accumulate b).tpend = s.tpend := rfl
@[simp] theorem accumulate_wire (b : Byte) : (s.accumulate b).wire = s.wire := rfl
@[simp] theorem accumulate_fcnt (b : Byte) : (s.accumulate b).fcnt = s.fcnt := rfl
@[simp] theorem accumulate_lb (b : Byte) : (s.accumulate b).lb = s.lb := rfl
@[simp] theorem accumulate_cfg (b : Byte) : (s.accumulate b).cfg = s.cfg := rfl
@[simp] theorem accumulate_cfgIn (b : Byte) : (s.accumulate b).cfgIn = s.cfgIn := rfl
@[simp] theorem accumulate_reqFrame (b : Byte) : (s.accumulate b).reqFrame = s.reqFrame := rfl
@[simp] theorem accumulate_reqDebug (b : Byte) : (s.accumulate b).reqDebug = s.reqDebug := rfl
@[simp] theorem accumulate_text (b : Byte) : (s.accumulate b).text = s.text := rfl
@[simp] theorem accumulate_hostFrame (b : Byte) : (s.accumulate b).hostFrame = s.hostFrame := rfl
@[simp] theorem accumulate_out (b : Byte) : (s.accumulate b).out = s.out := rfl
@[simp] theorem accumulate_schedule (b : Byte) : (s.accumulate b).schedule = s.schedule := rfl
@[simp] theorem accumulate_op (b : Byte) : (s.accumulate b).op = s.op := rfl
@[simp] theorem accumulate_draws (b : Byte) : (s.accumulate b).draws = s.draws := rfl

/-! ### startLine -/

@[simp] theorem startLine_ph : (s.startLine).ph = .lPre := rfl
@[simp] theorem startLine_txn : (s.startLine).txn = s.txn := rfl
@[simp] theorem startLine_cidx : (s.startLine).cidx = s.cidx := rfl
@[simp] theorem startLine_cks : (s.startLine).cks = s.cks := rfl
@[simp] theorem startLine_dlen : (s.startLine).dlen = s.dlen := rfl
@[simp] theorem startLine_row : (s.startLine).row = s.row := rfl
@[simp] theorem startLine_cap : (s.startLine).cap = 0 := rfl
@[simp] theorem startLine_snd : (s.startLine).snd = 0 := rfl
@[simp] theorem startLine_fmt : (s.startLine).fmt = false := rfl
@[simp] theorem startLine_hl : (s.startLine).hl = .high := rfl
@[simp] theorem startLine_tmp : (s.startLine).tmp = s.tmp := rfl
@[simp] theorem startLine_txd : (s.startLine).txd = s.txd := rfl
@[simp] theorem startLine_txbusy : (s.startLine).txbusy = s.txbusy := rfl
@[simp] theorem startLine_tpend : (s.startLine).tpend = s.tpend := rfl
@[simp] theorem startLine_wire : (s.startLine).wire = s.wire := rfl
@[simp] theorem startLine_fcnt : (s.startLine).fcnt = s.fcnt := rfl
@[simp] theorem startLine_lb : (s.startLine).lb = s.lb := rfl
@[simp] theorem startLine_cfg : (s.startLine).cfg = s.cfg := rfl
@[simp] theorem startLine_cfgIn : (s.startLine).cfgIn = s.cfgIn := rfl
@[simp] theorem startLine_reqFrame : (s.startLine).reqFrame = s.reqFrame := rfl
@[simp] theorem startLine_reqDebug : (s.startLine).reqDebug = s.reqDebug := rfl
@[simp] theorem startLine_text : (s.startLine).text = s.text := rfl
@[simp] theorem startLine_hostFrame : (s.startLine).hostFrame = s.hostFrame := rfl
@[simp] theorem startLine_out : (s.startLine).out = s.out := rfl
@[simp] theorem startLine_schedule : (s.startLine).schedule = s.schedule := rfl
@[simp] theorem startLine_op : (s.startLine).op = s.op := rfl
@[simp] theorem startLine_draws : (s.startLine).draws = s.draws := rfl

/-! ### capture -/

@[simp] theorem capture_ph (b : Byte) : (s.capture b).ph = s.ph := rfl
@[simp] theorem capture_txn (b : Byte) : (s.capture b).txn = s.txn := rfl
@[simp] theorem capture_cidx (b : Byte) : (s.capture b).cidx = s.cidx := rfl
@[simp] theorem capture_cks (b : Byte) : (s.capture b).cks = s.cks := rfl
@[simp] theorem capture_dlen (b : Byte) : (s.capture b).dlen = s.dlen := rfl
@[simp] theorem capture_row (b : Byte) : (s.capture b).row = s.row := rfl
@[simp] theorem capture_cap (b : Byte) : (s.capture b).cap = s.cap + 1 := rfl
@[simp] theorem capture_snd (b : Byte) : (s.capture b).snd = s.snd := rfl
@[simp] theorem capture_fmt (b : Byte) : (s.capture b).fmt = s.fmt := rfl
@[simp] theorem capture_hl (b : Byte) : (s.capture b).hl = s.hl := rfl
@[simp] theorem capture_tmp (b : Byte) : (s.capture b).tmp = s.tmp := rfl
@[simp] theorem capture_txd (b : Byte) : (s.capture b).txd = s.txd := rfl
@[simp] theorem capture_txbusy (b : Byte) : (s.capture b).txbusy = s.txbusy := rfl
@[simp] theorem capture_tpend (b : Byte) : (s.capture b).tpend = s.tpend := rfl
@[simp] theorem capture_wire (b : Byte) : (s.capture b).wire = s.wire := rfl
@[simp] theorem capture_fcnt (b : Byte) : (s.capture b).fcnt = s.fcnt := rfl
@[simp] theorem capture_lb (b : Byte) : (s.capture b).lb = memWrite s.lb s.cap.toNat b := rfl
@[simp] theorem capture_cfg (b : Byte) : (s.capture b).cfg = s.cfg := rfl
@[simp] theorem capture_cfgIn (b : Byte) : (s.capture b).cfgIn = s.cfgIn := rfl
@[simp] theorem capture_reqFrame (b : Byte) : (s.capture b).reqFrame = s.reqFrame := rfl
@[simp] theorem capture_reqDebug (b : Byte) : (s.capture b).reqDebug = s.reqDebug := rfl
@[simp] theorem capture_text (b : Byte) : (s.capture b).text = s.text := rfl
@[simp] theorem capture_hostFrame (b : Byte) : (s.capture b).hostFrame = s.hostFrame := rfl
@[simp] theorem capture_out (b : Byte) : (s.capture b).out = s.out := rfl
@[simp] theorem capture_schedule (b : Byte) : (s.capture b).schedule = s.schedule := rfl
@[simp] theorem capture_op (b : Byte) : (s.capture b).op = s.op := rfl
@[simp] theorem capture_draws (b : Byte) : (s.capture b).draws = s.draws := rfl

/-! ### formatted -/

@[simp] theorem formatted_ph (b : Byte) : (s.formatted b).ph = s.ph := rfl
@[simp] theorem formatted_txn (b : Byte) : (s.formatted b).txn = s.txn := rfl
@[simp] theorem formatted_cidx (b : Byte) : (s.formatted b).cidx = s.cidx := rfl
@[simp] theorem formatted_cks (b : Byte) : (s.formatted b).cks = s.cks := rfl
@[simp] theorem formatted_dlen (b : Byte) : (s.formatted b).dlen = s.dlen := rfl
@[simp] theorem formatted_row (b : Byte) : (s.formatted b).row = s.row := rfl
@[simp] theorem formatted_cap (b : Byte) : (s.formatted b).cap = s.cap := rfl
@[simp] theorem formatted_snd (b : Byte) : (s.formatted b).snd = s.snd := rfl
@[simp] theorem formatted_fmt (b : Byte) : (s.formatted b).fmt = true := rfl
@[simp] theorem formatted_hl (b : Byte) : (s.formatted b).hl = toggle s.hl := rfl
@[simp] theorem formatted_tmp (b : Byte) : (s.formatted b).tmp = s.tmp := rfl
@[simp] theorem formatted_txd (b : Byte) : (s.formatted b).txd = s.txd := rfl
@[simp] theorem formatted_txbusy (b : Byte) : (s.formatted b).txbusy = s.txbusy := rfl
@[simp] theorem formatted_tpend (b : Byte) : (s.formatted b).tpend = s.tpend := rfl
@[simp] theorem formatted_wire (b : Byte) : (s.formatted b).wire = s.wire := rfl
@[simp] theorem formatted_fcnt (b : Byte) : (s.formatted b).fcnt = s.fcnt := rfl
@[simp] theorem formatted_lb (b : Byte) : (s.formatted b).lb = memWrite s.lb s.snd.toNat b := rfl
@[simp] theorem formatted_cfg (b : Byte) : (s.formatted b).cfg = s.cfg := rfl
@[simp] theorem formatted_cfgIn (b : Byte) : (s.formatted b).cfgIn = s.cfgIn := rfl
@[simp] theorem formatted_reqFrame (b : Byte) : (s.formatted b).reqFrame = s.reqFrame := rfl
@[simp] theorem formatted_reqDebug (b : Byte) : (s.formatted b).reqDebug = s.reqDebug := rfl
@[simp] theorem formatted_text (b : Byte) : (s.formatted b).text = s.text := rfl
@[simp] theorem formatted_hostFrame (b : Byte) : (s.formatted b).hostFrame = s.hostFrame := rfl
@[simp] theorem formatted_out (b : Byte) : (s.formatted b).out = s.out := rfl
@[simp] theorem formatted_schedule (b : Byte) : (s.formatted b).schedule = s.schedule := rfl
@[simp] theorem formatted_op (b : Byte) : (s.formatted b).op = s.op := rfl
@[simp] theorem formatted_draws (b : Byte) : (s.formatted b).draws = s.draws := rfl

/-! ### sendNext -/

@[simp] theorem sendNext_ph (b : Byte) : (s.sendNext b).ph = s.ph := rfl
@[simp] theorem sendNext_txn (b : Byte) : (s.sendNext b).txn = s.txn := rfl
@[simp] theorem sendNext_cidx (b : Byte) : (s.sendNext b).cidx = s.cidx := rfl
@[simp] theorem sendNext_cks (b : Byte) : (s.sendNext b).cks = s.cks := rfl
@[simp] theorem sendNext_dlen (b : Byte) : (s.sendNext b).dlen = s.dlen := rfl
@[simp] theorem sendNext_row (b : Byte) : (s.sendNext b).row = s.row := rfl
@[simp] theorem sendNext_cap (b : Byte) : (s.sendNext b).cap = s.cap := rfl
@[simp] theorem sendNext_snd (b : Byte) : (s.sendNext b).snd = s.snd + 1 := rfl
@[simp] theorem sendNext_fmt (b : Byte) : (s.sendNext b).fmt = false := rfl
@[simp] theorem sendNext_hl (b : Byte) : (s.sendNext b).hl = s.hl := rfl
@[simp] theorem sendNext_tmp (b : Byte) : (s.sendNext b).tmp = s.tmp := rfl
@[simp] theorem sendNext_txd (b : Byte) : (s.sendNext b).txd = b := rfl
@[simp] theorem sendNext_txbusy (b : Byte) : (s.sendNext b).txbusy = true := rfl
@[simp] theorem sendNext_tpend (b : Byte) : (s.sendNext b).tpend = s.tpend := rfl
@[simp] theorem sendNext_wire (b : Byte) : (s.sendNext b).wire = s.wire ++ [b] := rfl
@[simp] theorem sendNext_fcnt (b : Byte) : (s.sendNext b).fcnt = s.fcnt := rfl
@[simp] theorem sendNext_lb (b : Byte) : (s.sendNext b).lb = s.lb := rfl
@[simp] theorem sendNext_cfg (b : Byte) : (s.sendNext b).cfg = s.cfg := rfl
@[simp] theorem sendNext_cfgIn (b : Byte) : (s.sendNext b).cfgIn = s.cfgIn := rfl
@[simp] theorem sendNext_reqFrame (b : Byte) : (s.sendNext b).reqFrame = s.reqFrame := rfl
@[simp] theorem sendNext_reqDebug (b : Byte) : (s.sendNext b).reqDebug = s.reqDebug := rfl
@[simp] theorem sendNext_text (b : Byte) : (s.sendNext b).text = s.text := rfl
@[simp] theorem sendNext_hostFrame (b : Byte) : (s.sendNext b).hostFrame = s.hostFrame := rfl
@[simp] theorem sendNext_out (b : Byte) : (s.sendNext b).out = { s.out with txValid := true } := rfl
@[simp] theorem sendNext_schedule (b : Byte) : (s.sendNext b).schedule = s.schedule := rfl
@[simp] theorem sendNext_op (b : Byte) : (s.sendNext b).op = s.op := rfl
@[simp] theorem sendNext_draws (b : Byte) : (s.sendNext b).draws = s.draws := rfl

/-! ### acceptFrame -/

@[simp] theorem acceptFrame_ph : (s.acceptFrame).ph = .cmd := rfl
@[simp] theorem acceptFrame_txn : (s.acceptFrame).txn = .frame := rfl
@[simp] theorem acceptFrame_cidx : (s.acceptFrame).cidx = 0 := rfl
@[simp] theorem acceptFrame_cks : (s.acceptFrame).cks = 0 := rfl
@[simp] theorem acceptFrame_dlen : (s.acceptFrame).dlen = s.dlen := rfl
@[simp] theorem acceptFrame_row : (s.acceptFrame).row = s.row := rfl
@[simp] theorem acceptFrame_cap : (s.acceptFrame).cap = s.cap := rfl
@[simp] theorem acceptFrame_snd : (s.acceptFrame).snd = s.snd := rfl
@[simp] theorem acceptFrame_fmt : (s.acceptFrame).fmt = s.fmt := rfl
@[simp] theorem acceptFrame_hl : (s.acceptFrame).hl = s.hl := rfl
@[simp] theorem acceptFrame_tmp : (s.acceptFrame).tmp = s.tmp := rfl
@[simp] theorem acceptFrame_txd : (s.acceptFrame).txd = s.txd := rfl
@[simp] theorem acceptFrame_txbusy : (s.acceptFrame).txbusy = s.txbusy := rfl
@[simp] theorem acceptFrame_tpend : (s.acceptFrame).tpend = s.tpend := rfl
@[simp] theorem acceptFrame_wire : (s.acceptFrame).wire = s.wire := rfl
@[simp] theorem acceptFrame_fcnt : (s.acceptFrame).fcnt = s.fcnt + 1 := rfl
@[simp] theorem acceptFrame_lb : (s.acceptFrame).lb = s.lb := rfl
@[simp] theorem acceptFrame_cfg : (s.acceptFrame).cfg = s.cfg := rfl
@[simp] theorem acceptFrame_cfgIn : (s.acceptFrame).cfgIn = s.cfgIn := rfl
@[simp] theorem acceptFrame_reqFrame : (s.acceptFrame).reqFrame = s.reqFrame := rfl
@[simp] theorem acceptFrame_reqDebug : (s.acceptFrame).reqDebug = s.reqDebug := rfl
@[simp] theorem acceptFrame_text : (s.acceptFrame).text = s.text := rfl
@[simp] theorem acceptFrame_hostFrame : (s.acceptFrame).hostFrame = s.hostFrame := rfl
@[simp] theorem acceptFrame_out : (s.acceptFrame).out = s.out := rfl
@[simp] theorem acceptFrame_schedule : (s.acceptFrame).schedule = s.schedule := rfl
@[simp] theorem acceptFrame_op : (s.acceptFrame).op = s.op := rfl
@[simp] theorem acceptFrame_draws : (s.acceptFrame).draws = s.draws := rfl

/-! ### acceptTrigger -/

@[simp] theorem acceptTrigger_ph : (s.acceptTrigger).ph = .cmd := rfl
@[simp] theorem acceptTrigger_txn : (s.acceptTrigger).txn = .frame := rfl
@[simp] theorem acceptTrigger_cidx : (s.acceptTrigger).cidx = 0 := rfl
@[simp] theorem acceptTrigger_cks : (s.acceptTrigger).cks = 0 := rfl
@[simp] theorem acceptTrigger_dlen : (s.acceptTrigger).dlen = s.dlen := rfl
@[simp] theorem acceptTrigger_row : (s.acceptTrigger).row = s.row := rfl
@[simp] theorem acceptTrigger_cap : (s.acceptTrigger).cap = s.cap := rfl
@[simp] theorem acceptTrigger_snd : (s.acceptTrigger).snd = s.snd := rfl
@[simp] theorem acceptTrigger_fmt : (s.acceptTrigger).fmt = s.fmt := rfl
@[simp] theorem acceptTrigger_hl : (s.acceptTrigger).hl = s.hl := rfl
@[simp] theorem acceptTrigger_tmp : (s.acceptTrigger).tmp = s.tmp := rfl
@[simp] theorem acceptTrigger_txd : (s.acceptTrigger).txd = s.txd := rfl
@[simp] theorem acceptTrigger_txbusy : (s.acceptTrigger).txbusy = s.txbusy := rfl
@[simp] theorem acceptTrigger_tpend : (s.acceptTrigger).tpend = false := rfl
@[simp] theorem acceptTrigger_wire : (s.acceptTrigger).wire = s.wire := rfl
@[simp] theorem acceptTrigger_fcnt : (s.acceptTrigger).fcnt = s.fcnt + 1 := rfl
@[simp] theorem acceptTrigger_lb : (s.acceptTrigger).lb = s.lb := rfl
@[simp] theorem acceptTrigger_cfg : (s.acceptTrigger).cfg = s.cfg := rfl
@[simp] theorem acceptTrigger_cfgIn : (s.acceptTrigger).cfgIn = s.cfgIn := rfl
@[simp] theorem acceptTrigger_reqFrame : (s.acceptTrigger).reqFrame = s.reqFrame := rfl
@[simp] theorem acceptTrigger_reqDebug : (s.acceptTrigger).reqDebug = s.reqDebug := rfl
@[simp] theorem acceptTrigger_text : (s.acceptTrigger).text = s.text := rfl
@[simp] theorem acceptTrigger_hostFrame : (s.acceptTrigger).hostFrame = false := rfl
@[simp] theorem acceptTrigger_out : (s.acceptTrigger).out = s.out := rfl
@[simp] theorem acceptTrigger_schedule : (s.acceptTrigger).schedule = s.schedule := rfl
@[simp] theorem acceptTrigger_op : (s.acceptTrigger).op = s.op := rfl
@[simp] theorem acceptTrigger_draws : (s.acceptTrigger).draws = s.draws := rfl

/-! ### acceptHostFrame -/

@[simp] theorem acceptHostFrame_ph : (s.acceptHostFrame).ph = .cmd := rfl
@[simp] theorem acceptHostFrame_txn : (s.acceptHostFrame).txn = .frame := rfl
@[simp] theorem acceptHostFrame_cidx : (s.acceptHostFrame).cidx = 0 := rfl
@[simp] theorem acceptHostFrame_cks : (s.acceptHostFrame).cks = 0 := rfl
@[simp] theorem acceptHostFrame_dlen : (s.acceptHostFrame).dlen = s.dlen := rfl
@[simp] theorem acceptHostFrame_row : (s.acceptHostFrame).row = s.row := rfl
@[simp] theorem acceptHostFrame_cap : (s.acceptHostFrame).cap = s.cap := rfl
@[simp] theorem acceptHostFrame_snd : (s.acceptHostFrame).snd = s.snd := rfl
@[simp] theorem acceptHostFrame_fmt : (s.acceptHostFrame).fmt = s.fmt := rfl
@[simp] theorem acceptHostFrame_hl : (s.acceptHostFrame).hl = s.hl := rfl
@[simp] theorem acceptHostFrame_tmp : (s.acceptHostFrame).tmp = s.tmp := rfl
@[simp] theorem acceptHostFrame_txd : (s.acceptHostFrame).txd = s.txd := rfl
@[simp] theorem acceptHostFrame_txbusy : (s.acceptHostFrame).txbusy = s.txbusy := rfl
@[simp] theorem acceptHostFrame_tpend : (s.acceptHostFrame).tpend = s.tpend := rfl
@[simp] theorem acceptHostFrame_wire : (s.acceptHostFrame).wire = s.wire := rfl
@[simp] theorem acceptHostFrame_fcnt : (s.acceptHostFrame).fcnt = s.fcnt + 1 := rfl
@[simp] theorem acceptHostFrame_lb : (s.acceptHostFrame).lb = s.lb := rfl
@[simp] theorem acceptHostFrame_cfg : (s.acceptHostFrame).cfg = s.cfg := rfl
@[simp] theorem acceptHostFrame_cfgIn : (s.acceptHostFrame).cfgIn = s.cfgIn := rfl
@[simp] theorem acceptHostFrame_reqFrame : (s.acceptHostFrame).reqFrame = false := rfl
@[simp] theorem acceptHostFrame_reqDebug : (s.acceptHostFrame).reqDebug = s.reqDebug := rfl
@[simp] theorem acceptHostFrame_text : (s.acceptHostFrame).text = s.text := rfl
@[simp] theorem acceptHostFrame_hostFrame : (s.acceptHostFrame).hostFrame = true := rfl
@[simp] theorem acceptHostFrame_out : (s.acceptHostFrame).out = { s.out with ackFrame := true } := rfl
@[simp] theorem acceptHostFrame_schedule : (s.acceptHostFrame).schedule = s.schedule := rfl
@[simp] theorem acceptHostFrame_op : (s.acceptHostFrame).op = s.op := rfl
@[simp] theorem acceptHostFrame_draws : (s.acceptHostFrame).draws = s.draws := rfl

/-! ### acceptDebug -/

@[simp] theorem acceptDebug_ph (n : BitVec 16) : (s.acceptDebug n).ph = .cmd := rfl
@[simp] theorem acceptDebug_txn (n : BitVec 16) : (s.acceptDebug n).txn = .debug := rfl
@[simp] theorem acceptDebug_cidx (n : BitVec 16) : (s.acceptDebug n).cidx = 0 := rfl
@[simp] theorem acceptDebug_cks (n : BitVec 16) : (s.acceptDebug n).cks = 0 := rfl
@[simp] theorem acceptDebug_dlen (n : BitVec 16) : (s.acceptDebug n).dlen = n := rfl
@[simp] theorem acceptDebug_row (n : BitVec 16) : (s.acceptDebug n).row = s.row := rfl
@[simp] theorem acceptDebug_cap (n : BitVec 16) : (s.acceptDebug n).cap = s.cap := rfl
@[simp] theorem acceptDebug_snd (n : BitVec 16) : (s.acceptDebug n).snd = s.snd := rfl
@[simp] theorem acceptDebug_fmt (n : BitVec 16) : (s.acceptDebug n).fmt = s.fmt := rfl
@[simp] theorem acceptDebug_hl (n : BitVec 16) : (s.acceptDebug n).hl = s.hl := rfl
@[simp] theorem acceptDebug_tmp (n : BitVec 16) : (s.acceptDebug n).tmp = s.tmp := rfl
@[simp] theorem acceptDebug_txd (n : BitVec 16) : (s.acceptDebug n).txd = s.txd := rfl
@[simp] theorem acceptDebug_txbusy (n : BitVec 16) : (s.acceptDebug n).txbusy = s.txbusy := rfl
@[simp] theorem acceptDebug_tpend (n : BitVec 16) : (s.acceptDebug n).tpend = s.tpend := rfl
@[simp] theorem acceptDebug_wire (n : BitVec 16) : (s.acceptDebug n).wire = s.wire := rfl
@[simp] theorem acceptDebug_fcnt (n : BitVec 16) : (s.acceptDebug n).fcnt = s.fcnt := rfl
@[simp] theorem acceptDebug_lb (n : BitVec 16) : (s.acceptDebug n).lb = s.lb := rfl
@[simp] theorem acceptDebug_cfg (n : BitVec 16) : (s.acceptDebug n).cfg = s.cfg := rfl
@[simp] theorem acceptDebug_cfgIn (n : BitVec 16) : (s.acceptDebug n).cfgIn = s.cfgIn := rfl
@[simp] theorem acceptDebug_reqFrame (n : BitVec 16) : (s.acceptDebug n).reqFrame = s.reqFrame := rfl
@[simp] theorem acceptDebug_reqDebug (n : BitVec 16) : (s.acceptDebug n).reqDebug = s.reqDebug := rfl
@[simp] theorem acceptDebug_text (n : BitVec 16) : (s.acceptDebug n).text = s.text := rfl
@[simp] theorem acceptDebug_hostFrame (n : BitVec 16) : (s.acceptDebug n).hostFrame = s.hostFrame := rfl
@[simp] theorem acceptDebug_out (n : BitVec 16) : (s.acceptDebug n).out = s.out := rfl
@[simp] theorem acceptDebug_schedule (n : BitVec 16) : (s.acceptDebug n).schedule = s.schedule := rfl
@[simp] theorem acceptDebug_op (n : BitVec 16) : (s.acceptDebug n).op = s.op := rfl
@[simp] theorem acceptDebug_draws (n : BitVec 16) : (s.acceptDebug n).draws = s.draws := rfl

/-! ### acceptHostDebug -/

@[simp] theorem acceptHostDebug_ph (t : List Byte) : (s.acceptHostDebug t).ph = .cmd := rfl
@[simp] theorem acceptHostDebug_txn (t : List Byte) : (s.acceptHostDebug t).txn = .debug := rfl
@[simp] theorem acceptHostDebug_cidx (t : List Byte) : (s.acceptHostDebug t).cidx = 0 := rfl
@[simp] theorem acceptHostDebug_cks (t : List Byte) : (s.acceptHostDebug t).cks = 0 := rfl
@[simp] theorem acceptHostDebug_dlen (t : List Byte) : (s.acceptHostDebug t).dlen = BitVec.ofNat 16 t.length := rfl
@[simp] theorem acceptHostDebug_row (t : List Byte) : (s.acceptHostDebug t).row = s.row := rfl
@[simp] theorem acceptHostDebug_cap (t : List Byte) : (s.acceptHostDebug t).cap = s.cap := rfl
@[simp] theorem acceptHostDebug_snd (t : List Byte) : (s.acceptHostDebug t).snd = s.snd := rfl
@[simp] theorem acceptHostDebug_fmt (t : List Byte) : (s.acceptHostDebug t).fmt = s.fmt := rfl
@[simp] theorem acceptHostDebug_hl (t : List Byte) : (s.acceptHostDebug t).hl = s.hl := rfl
@[simp] theorem acceptHostDebug_tmp (t : List Byte) : (s.acceptHostDebug t).tmp = s.tmp := rfl
@[simp] theorem acceptHostDebug_txd (t : List Byte) : (s.acceptHostDebug t).txd = s.txd := rfl
@[simp] theorem acceptHostDebug_txbusy (t : List Byte) : (s.acceptHostDebug t).txbusy = s.txbusy := rfl
@[simp] theorem acceptHostDebug_tpend (t : List Byte) : (s.acceptHostDebug t).tpend = s.tpend := rfl
@[simp] theorem acceptHostDebug_wire (t : List Byte) : (s.acceptHostDebug t).wire = s.wire := rfl
@[simp] theorem acceptHostDebug_fcnt (t : List Byte) : (s.acceptHostDebug t).fcnt = s.fcnt := rfl
@[simp] theorem acceptHostDebug_lb (t : List Byte) : (s.acceptHostDebug t).lb = s.lb := rfl
@[simp] theorem acceptHostDebug_cfg (t : List Byte) : (s.acceptHostDebug t).cfg = s.cfg := rfl
@[simp] theorem acceptHostDebug_cfgIn (t : List Byte) : (s.acceptHostDebug t).cfgIn = s.cfgIn := rfl
@[simp] theorem acceptHostDebug_reqFrame (t : List Byte) : (s.acceptHostDebug t).reqFrame = s.reqFrame := rfl
@[simp] theorem acceptHostDebug_reqDebug (t : List Byte) : (s.acceptHostDebug t).reqDebug = none := rfl
@[simp] theorem acceptHostDebug_text (t : List Byte) : (s.acceptHostDebug t).text = t := rfl
@[simp] theorem acceptHostDebug_hostFrame (t : List Byte) : (s.acceptHostDebug t).hostFrame = s.hostFrame := rfl
@[simp] theorem acceptHostDebug_out (t : List Byte) : (s.acceptHostDebug t).out = { s.out with ackDebug := true } := rfl
@[simp] theorem acceptHostDebug_schedule (t : List Byte) : (s.acceptHostDebug t).schedule = s.schedule := rfl
@[simp] theorem acceptHostDebug_op (t : List Byte) : (s.acceptHostDebug t).op = s.op := rfl
@[simp] theorem acceptHostDebug_draws (t : List Byte) : (s.acceptHostDebug t).draws = s.draws := rfl

/-! ### endTransaction -/

@[simp] theorem endTransaction_ph : (s.endTransaction).ph = .idle := rfl
@[simp] theorem endTransaction_txn : (s.endTransaction).txn = .none := rfl
@[simp] theorem endTransaction_cidx : (s.endTransaction).cidx = s.cidx := rfl
@[simp] theorem endTransaction_cks : (s.endTransaction).cks = s.cks := rfl
@[simp] theorem endTransaction_dlen : (s.endTransaction).dlen = s.dlen := rfl
@[simp] theorem endTransaction_row : (s.endTransaction).row = s.row := rfl
@[simp] theorem endTransaction_cap : (s.endTransaction).cap = s.cap := rfl
@[simp] theorem endTransaction_snd : (s.endTransaction).snd = s.snd := rfl
@[simp] theorem endTransaction_fmt : (s.endTransaction).fmt = s.fmt := rfl
@[simp] theorem endTransaction_hl : (s.endTransaction).hl = s.hl := rfl
@[simp] theorem endTransaction_tmp : (s.endTransaction).tmp = s.tmp := rfl
@[simp] theorem endTransaction_txd : (s.endTransaction).txd = s.txd := rfl
@[simp] theorem endTransaction_txbusy : (s.endTransaction).txbusy = s.txbusy := rfl
@[simp] theorem endTransaction_tpend : (s.endTransaction).tpend = s.tpend := rfl
@[simp] theorem endTransaction_wire : (s.endTransaction).wire = s.wire := rfl
@[simp] theorem endTransaction_fcnt : (s.endTransaction).fcnt = s.fcnt := rfl
@[simp] theorem endTransaction_lb : (s.endTransaction).lb = s.lb := rfl
@[simp] theorem endTransaction_cfg : (s.endTransaction).cfg = s.cfg := rfl
@[simp] theorem endTransaction_cfgIn : (s.endTransaction).cfgIn = s.cfgIn := rfl
@[simp] theorem endTransaction_reqFrame : (s.endTransaction).reqFrame = s.reqFrame := rfl
@[simp] theorem endTransaction_reqDebug : (s.endTransaction).reqDebug = s.reqDebug := rfl
@[simp] theorem endTransaction_text : (s.endTransaction).text = s.text := rfl
@[simp] theorem endTransaction_hostFrame : (s.endTransaction).hostFrame = s.hostFrame := rfl
@[simp] theorem endTransaction_out : (s.endTransaction).out = s.out := rfl
@[simp] theorem endTransaction_schedule : (s.endTransaction).schedule = s.schedule := rfl
@[simp] theorem endTransaction_op : (s.endTransaction).op = s.op := rfl
@[simp] theorem endTransaction_draws : (s.endTransaction).draws = s.draws := rfl

/-! ### endFrame -/

@[simp] theorem endFrame_ph : (s.endFrame).ph = .idle := rfl
@[simp] theorem endFrame_txn : (s.endFrame).txn = .none := rfl
@[simp] theorem endFrame_cidx : (s.endFrame).cidx = s.cidx := rfl
@[simp] theorem endFrame_cks : (s.endFrame).cks = s.cks := rfl
@[simp] theorem endFrame_dlen : (s.endFrame).dlen = s.dlen := rfl
@[simp] theorem endFrame_row : (s.endFrame).row = s.row := rfl
@[simp] theorem endFrame_cap : (s.endFrame).cap = s.cap := rfl
@[simp] theorem endFrame_snd : (s.endFrame).snd = s.snd := rfl
@[simp] theorem endFrame_fmt : (s.endFrame).fmt = s.fmt := rfl
@[simp] theorem endFrame_hl : (s.endFrame).hl = s.hl := rfl
@[simp] theorem endFrame_tmp : (s.endFrame).tmp = s.tmp := rfl
@[simp] theorem endFrame_txd : (s.endFrame).txd = s.txd := rfl
@[simp] theorem endFrame_txbusy : (s.endFrame).txbusy = s.txbusy := rfl
@[simp] theorem endFrame_tpend : (s.endFrame).tpend = s.tpend := rfl
@[simp] theorem endFrame_wire : (s.endFrame).wire = s.wire := rfl
@[simp] theorem endFrame_fcnt : (s.endFrame).fcnt = s.fcnt := rfl
@[simp] theorem endFrame_lb : (s.endFrame).lb = s.lb := rfl
@[simp] theorem endFrame_cfg : (s.endFrame).cfg = s.cfg := rfl
@[simp] theorem endFrame_cfgIn : (s.endFrame).cfgIn = s.cfgIn := rfl
@[simp] theorem endFrame_reqFrame : (s.endFrame).reqFrame = s.reqFrame := rfl
@[simp] theorem endFrame_reqDebug : (s.endFrame).reqDebug = s.reqDebug := rfl
@[simp] theorem endFrame_text : (s.endFrame).text = s.text := rfl
@[simp] theorem endFrame_hostFrame : (s.endFrame).hostFrame = s.hostFrame := rfl
@[simp] theorem endFrame_out : (s.endFrame).out = { s.out with done := s.hostFrame } := rfl
@[simp] theorem endFrame_schedule : (s.endFrame).schedule = s.schedule := rfl
@[simp] theorem endFrame_op : (s.endFrame).op = s.op := rfl
@[simp] theorem endFrame_draws : (s.endFrame).draws = s.draws := rfl

/-! ### endDebug -/

@[simp] theorem endDebug_ph : (s.endDebug).ph = .idle := rfl
@[simp] theorem endDebug_txn : (s.endDebug).txn = .none := rfl
@[simp] theorem endDebug_cidx : (s.endDebug).cidx = s.cidx := rfl
@[simp] theorem endDebug_cks : (s.endDebug).cks = s.cks := rfl
@[simp] theorem endDebug_dlen : (s.endDebug).dlen = s.dlen := rfl
@[simp] theorem endDebug_row : (s.endDebug).row = s.row := rfl
@[simp] theorem endDebug_cap : (s.endDebug).cap = s.cap := rfl
@[simp] theorem endDebug_snd : (s.endDebug).snd = s.snd := rfl
@[simp] theorem endDebug_fmt : (s.endDebug).fmt = s.fmt := rfl
@[simp] theorem endDebug_hl : (s.endDebug).hl = s.hl := rfl
@[simp] theorem endDebug_tmp : (s.endDebug).tmp = s.tmp := rfl
@[simp] theorem endDebug_txd : (s.endDebug).txd = s.txd := rfl
@[simp] theorem endDebug_txbusy : (s.endDebug).txbusy = s.txbusy := rfl
@[simp] theorem endDebug_tpend : (s.endDebug).tpend = s.tpend := rfl
@[simp] theorem endDebug_wire : (s.endDebug).wire = s.wire := rfl
@[simp] theorem endDebug_fcnt : (s.endDebug).fcnt = s.fcnt := rfl
@[simp] theorem endDebug_lb : (s.endDebug).lb = s.lb := rfl
@[simp] theorem endDebug_cfg : (s.endDebug).cfg = s.cfg := rfl
@[simp] theorem endDebug_cfgIn : (s.endDebug).cfgIn = s.cfgIn := rfl
@[simp] theorem endDebug_reqFrame : (s.endDebug).reqFrame = s.reqFrame := rfl
@[simp] theorem endDebug_reqDebug : (s.endDebug).reqDebug = s.reqDebug := rfl
@[simp] theorem endDebug_text : (s.endDebug).text = s.text := rfl
@[simp] theorem endDebug_hostFrame : (s.endDebug).hostFrame = s.hostFrame := rfl
@[simp] theorem endDebug_out : (s.endDebug).out = { s.out with done := true } := rfl
@[simp] theorem endDebug_schedule : (s.endDebug).schedule = s.schedule := rfl
@[simp] theorem endDebug_op : (s.endDebug).op = s.op := rfl
@[simp] theorem endDebug_draws : (s.endDebug).draws = s.draws := rfl

/-! ### resetBlock -/

@[simp] theorem resetBlock_ph : (s.resetBlock).ph = .idle := rfl
@[simp] theorem resetBlock_txn : (s.resetBlock).txn = .none := rfl
@[simp] theorem resetBlock_cidx : (s.resetBlock).cidx = 0 := rfl
@[simp] theorem resetBlock_cks : (s.resetBlock).cks = 0 := rfl
@[simp] theorem resetBlock_dlen : (s.resetBlock).dlen = 0 := rfl
@[simp] theorem resetBlock_row : (s.resetBlock).row = 0 := rfl
@[simp] theorem resetBlock_cap : (s.resetBlock).cap = 0 := rfl
@[simp] theorem resetBlock_snd : (s.resetBlock).snd = 0 := rfl
@[simp] theorem resetBlock_fmt : (s.resetBlock).fmt = false := rfl
@[simp] theorem resetBlock_hl : (s.resetBlock).hl = .high := rfl
@[simp] theorem resetBlock_tmp : (s.resetBlock).tmp = Config.freeByte s.draws := rfl
@[simp] theorem resetBlock_txd : (s.resetBlock).txd = Config.freeByte (s.draws + 1) := rfl
@[simp] theorem resetBlock_txbusy : (s.resetBlock).txbusy = false := rfl
@[simp] theorem resetBlock_tpend : (s.resetBlock).tpend = false := rfl
@[simp] theorem resetBlock_wire : (s.resetBlock).wire = [] := rfl
@[simp] theorem resetBlock_fcnt : (s.resetBlock).fcnt = 0 := rfl
@[simp] theorem resetBlock_lb : (s.resetBlock).lb = [] := rfl
@[simp] theorem resetBlock_cfg : (s.resetBlock).cfg = s.cfgIn := rfl
@[simp] theorem resetBlock_cfgIn : (s.resetBlock).cfgIn = s.cfgIn := rfl
@[simp] theorem resetBlock_reqFrame : (s.resetBlock).reqFrame = s.reqFrame := rfl
@[simp] theorem resetBlock_reqDebug : (s.resetBlock).reqDebug = s.reqDebug := rfl
@[simp] theorem resetBlock_text : (s.resetBlock).text = s.text := rfl
@[simp] theorem resetBlock_hostFrame : (s.resetBlock).hostFrame = false := rfl
@[simp] theorem resetBlock_out : (s.resetBlock).out = Outputs.quiet := rfl
@[simp] theorem resetBlock_schedule : (s.resetBlock).schedule = s.schedule := rfl
@[simp] theorem resetBlock_op : (s.resetBlock).op = s.op := rfl
@[simp] theorem resetBlock_draws : (s.resetBlock).draws = s.draws + 2 := rfl

/-! ### sentDirect -/

@[simp] theorem sentDirect_ph : (s.sentDirect).ph = if (s.snd + 1).toNat = lineBytes s.cfg then .lPost else .lAct := rfl
@[simp] theorem sentDirect_txn : (s.sentDirect).txn = s.txn := rfl
@[simp] theorem sentDirect_cidx : (s.sentDirect).cidx = s.cidx := rfl
@[simp] theorem sentDirect_cks : (s.sentDirect).cks = s.cks := rfl
@[simp] theorem sentDirect_dlen : (s.sentDirect).dlen = s.dlen := rfl
@[simp] theorem sentDirect_row : (s.sentDirect).row = s.row := rfl
@[simp] theorem sentDirect_cap : (s.sentDirect).cap = s.cap := rfl
@[simp] theorem sentDirect_snd : (s.sentDirect).snd = s.snd + 1 := rfl
@[simp] theorem sentDirect_fmt : (s.sentDirect).fmt = s.fmt := rfl
@[simp] theorem sentDirect_hl : (s.sentDirect).hl = s.hl := rfl
@[simp] theorem sentDirect_tmp : (s.sentDirect).tmp = s.tmp := rfl
@[simp] theorem sentDirect_txd : (s.sentDirect).txd = s.txd := rfl
@[simp] theorem sentDirect_txbusy : (s.sentDirect).txbusy = s.txbusy := rfl
@[simp] theorem sentDirect_tpend : (s.sentDirect).tpend = s.tpend := rfl
@[simp] theorem sentDirect_wire : (s.sentDirect).wire = s.wire := rfl
@[simp] theorem sentDirect_fcnt : (s.sentDirect).fcnt = s.fcnt := rfl
@[simp] theorem sentDirect_lb : (s.sentDirect).lb = s.lb := rfl
@[simp] theorem sentDirect_cfg : (s.sentDirect).cfg = s.cfg := rfl
@[simp] theorem sentDirect_cfgIn : (s.sentDirect).cfgIn = s.cfgIn := rfl
@[simp] theorem sentDirect_reqFrame : (s.sentDirect).reqFrame = s.reqFrame := rfl
@[simp] theorem sentDirect_reqDebug : (s.sentDirect).reqDebug = s.reqDebug := rfl
@[simp] theorem sentDirect_text : (s.sentDirect).text = s.text := rfl
@[simp] theorem sentDirect_hostFrame : (s.sentDirect).hostFrame = s.hostFrame := rfl
@[simp] theorem sentDirect_out : (s.sentDirect).out = s.out := rfl
@[simp] theorem sentDirect_schedule : (s.sentDirect).schedule = s.schedule := rfl
@[simp] theorem sentDirect_op : (s.sentDirect).op = s.op := rfl
@[simp] theorem sentDirect_draws : (s.sentDirect).draws = s.draws := rfl

/-! ### setRow -/

@[simp] theorem setRow_ph (n : BitVec 16) : (s.setRow n).ph = s.ph := rfl
@[simp] theorem setRow_txn (n : BitVec 16) : (s.setRow n).txn = s.txn := rfl
@[simp] theorem setRow_cidx (n : BitVec 16) : (s.setRow n).cidx = s.cidx := rfl
@[simp] theorem setRow_cks (n : BitVec 16) : (s.setRow n).cks = s.cks := rfl
@[simp] theorem setRow_dlen (n : BitVec 16) : (s.setRow n).dlen = s.dlen := rfl
@[simp] theorem setRow_row (n : BitVec 16) : (s.setRow n).row = n := rfl
@[simp] theorem setRow_cap (n : BitVec 16) : (s.setRow n).cap = s.cap := rfl
@[simp] theorem setRow_snd (n : BitVec 16) : (s.setRow n).snd = s.snd := rfl
@[simp] theorem setRow_fmt (n : BitVec 16) : (s.setRow n).fmt = s.fmt := rfl
@[simp] theorem setRow_hl (n : BitVec 16) : (s.setRow n).hl = s.hl := rfl
@[simp] theorem setRow_tmp (n : BitVec 16) : (s.setRow n).tmp = s.tmp := rfl
@[simp] theorem setRow_txd (n : BitVec 16) : (s.setRow n).txd = s.txd := rfl
@[simp] theorem setRow_txbusy (n : BitVec 16) : (s.setRow n).txbusy = s.txbusy := rfl
@[simp] theorem setRow_tpend (n : BitVec 16) : (s.setRow n).tpend = s.tpend := rfl
@[simp] theorem setRow_wire (n : BitVec 16) : (s.setRow n).wire = s.wire := rfl
@[simp] theorem setRow_fcnt (n : BitVec 16) : (s.setRow n).fcnt = s.fcnt := rfl
@[simp] theorem setRow_lb (n : BitVec 16) : (s.setRow n).lb = s.lb := rfl
@[simp] theorem setRow_cfg (n : BitVec 16) : (s.setRow n).cfg = s.cfg := rfl
@[simp] theorem setRow_cfgIn (n : BitVec 16) : (s.setRow n).cfgIn = s.cfgIn := rfl
@[simp] theorem setRow_reqFrame (n : BitVec 16) : (s.setRow n).reqFrame = s.reqFrame := rfl
@[simp] theorem setRow_reqDebug (n : BitVec 16) : (s.setRow n).reqDebug = s.reqDebug := rfl
@[simp] theorem setRow_text (n : BitVec 16) : (s.setRow n).text = s.text := rfl
@[simp] theorem setRow_hostFrame (n : BitVec 16) : (s.setRow n).hostFrame = s.hostFrame := rfl
@[simp] theorem setRow_out (n : BitVec 16) : (s.setRow n).out = s.out := rfl
@[simp] theorem setRow_schedule (n : BitVec 16) : (s.setRow n).schedule = s.schedule := rfl
@[simp] theorem setRow_op (n : BitVec 16) : (s.setRow n).op = s.op := rfl
@[simp] theorem setRow_draws (n : BitVec 16) : (s.setRow n).draws = s.draws := rfl

/-! ### setPhase -/

@[simp] theorem setPhase_ph (p : Phase) : (s.setPhase p).ph = p := rfl
@[simp] theorem setPhase_txn (p : Phase) : (s.setPhase p).txn = s.txn := rfl
@[simp] theorem setPhase_cidx (p : Phase) : (s.setPhase p).cidx = s.cidx := rfl
@[simp] theorem setPhase_cks (p : Phase) : (s.setPhase p).cks = s.cks := rfl
@[simp] theorem setPhase_dlen (p : Phase) : (s.setPhase p).dlen = s.dlen := rfl
@[simp] theorem setPhase_row (p : Phase) : (s.setPhase p).row = s.row := rfl
@[simp] theorem setPhase_cap (p : Phase) : (s.setPhase p).cap = s.cap := rfl
@[simp] theorem setPhase_snd (p : Phase) : (s.setPhase p).snd = s.snd := rfl
@[simp] theorem setPhase_fmt (p : Phase) : (s.setPhase p).fmt = s.fmt := rfl
@[simp] theorem setPhase_hl (p : Phase) : (s.setPhase p).hl = s.hl := rfl
@[simp] theorem setPhase_tmp (p : Phase) : (s.setPhase p).tmp = s.tmp := rfl
@[simp] theorem setPhase_txd (p : Phase) : (s.setPhase p).txd = s.txd := rfl
@[simp] theorem setPhase_txbusy (p : Phase) : (s.setPhase p).txbusy = s.txbusy := rfl
@[simp] theorem setPhase_tpend (p : Phase) : (s.setPhase p).tpend = s.tpend := rfl
@[simp] theorem setPhase_wire (p : Phase) : (s.setPhase p).wire = s.wire := rfl
@[simp] theorem setPhase_fcnt (p : Phase) : (s.setPhase p).fcnt = s.fcnt := rfl
@[simp] theorem setPhase_lb (p : Phase) : (s.setPhase p).lb = s.lb := rfl
@[simp] theorem setPhase_cfg (p : Phase) : (s.setPhase p).cfg = s.cfg := rfl
@[simp] theorem setPhase_cfgIn (p : Phase) : (s.setPhase p).cfgIn = s.cfgIn := rfl
@[simp] theorem setPhase_reqFrame (p : Phase) : (s.setPhase p).reqFrame = s.reqFrame := rfl
@[simp] theorem setPhase_reqDebug (p : Phase) : (s.setPhase p).reqDebug = s.reqDebug := rfl
@[simp] theorem setPhase_text (p : Phase) : (s.setPhase p).text = s.text := rfl
@[simp] theorem setPhase_hostFrame (p : Phase) : (s.setPhase p).hostFrame = s.hostFrame := rfl
@[simp] theorem setPhase_out (p : Phase) : (s.setPhase p).out = s.out := rfl
@[simp] theorem setPhase_schedule (p : Phase) : (s.setPhase p).schedule = s.schedule := rfl
@[simp] theorem setPhase_op (p : Phase) : (s.setPhase p).op = s.op := rfl
@[simp] theorem setPhase_draws (p : Phase) : (s.setPhase p).draws = s.draws := rfl

/-! ### takeOp -/

@[simp] theorem takeOp_ph : (s.takeOp).ph = s.ph := rfl
@[simp] theorem takeOp_txn : (s.takeOp).txn = s.txn := rfl
@[simp] theorem takeOp_cidx : (s.takeOp).cidx = s.cidx := rfl
@[simp] theorem takeOp_cks : (s.takeOp).cks = s.cks := rfl
@[simp] theorem takeOp_dlen : (s.takeOp).dlen = s.dlen := rfl
@[simp] theorem takeOp_row : (s.takeOp).row = s.row := rfl
@[simp] theorem takeOp_cap : (s.takeOp).cap = s.cap := rfl
@[simp] theorem takeOp_snd : (s.takeOp).snd = s.snd := rfl
@[simp] theorem takeOp_fmt : (s.takeOp).fmt = s.fmt := rfl
@[simp] theorem takeOp_hl : (s.takeOp).hl = s.hl := rfl
@[simp] theorem takeOp_tmp : (s.takeOp).tmp = s.tmp := rfl
@[simp] theorem takeOp_txd : (s.takeOp).txd = s.txd := rfl
@[simp] theorem takeOp_txbusy : (s.takeOp).txbusy = s.txbusy := rfl
@[simp] theorem takeOp_tpend : (s.takeOp).tpend = s.tpend := rfl
@[simp] theorem takeOp_wire : (s.takeOp).wire = s.wire := rfl
@[simp] theorem takeOp_fcnt : (s.takeOp).fcnt = s.fcnt := rfl
@[simp] theorem takeOp_lb : (s.takeOp).lb = s.lb := rfl
@[simp] theorem takeOp_cfg : (s.takeOp).cfg = s.cfg := rfl
@[simp] theorem takeOp_cfgIn : (s.takeOp).cfgIn = s.cfgIn := rfl
@[simp] theorem takeOp_reqFrame : (s.takeOp).reqFrame = s.reqFrame := rfl
@[simp] theorem takeOp_reqDebug : (s.takeOp).reqDebug = s.reqDebug := rfl
@[simp] theorem takeOp_text : (s.takeOp).text = s.text := rfl
@[simp] theorem takeOp_hostFrame : (s.takeOp).hostFrame = s.hostFrame := rfl
@[simp] theorem takeOp_out : (s.takeOp).out = Outputs.quiet := rfl
@[simp] theorem takeOp_schedule : (s.takeOp).schedule = s.schedule := rfl
@[simp] theorem takeOp_op : (s.takeOp).op = [] := rfl
@[simp] theorem takeOp_draws : (s.takeOp).draws = s.draws := rfl

/-! ### taking -/

@[simp] theorem taking_ph (es : List Event) : (s.taking es).ph = s.ph := rfl
@[simp] theorem taking_txn (es : List Event) : (s.taking es).txn = s.txn := rfl
@[simp] theorem taking_cidx (es : List Event) : (s.taking es).cidx = s.cidx := rfl
@[simp] theorem taking_cks (es : List Event) : (s.taking es).cks = s.cks := rfl
@[simp] theorem taking_dlen (es : List Event) : (s.taking es).dlen = s.dlen := rfl
@[simp] theorem taking_row (es : List Event) : (s.taking es).row = s.row := rfl
@[simp] theorem taking_cap (es : List Event) : (s.taking es).cap = s.cap := rfl
@[simp] theorem taking_snd (es : List Event) : (s.taking es).snd = s.snd := rfl
@[simp] theorem taking_fmt (es : List Event) : (s.taking es).fmt = s.fmt := rfl
@[simp] theorem taking_hl (es : List Event) : (s.taking es).hl = s.hl := rfl
@[simp] theorem taking_tmp (es : List Event) : (s.taking es).tmp = s.tmp := rfl
@[simp] theorem taking_txd (es : List Event) : (s.taking es).txd = s.txd := rfl
@[simp] theorem taking_txbusy (es : List Event) : (s.taking es).txbusy = s.txbusy := rfl
@[simp] theorem taking_tpend (es : List Event) : (s.taking es).tpend = s.tpend := rfl
@[simp] theorem taking_wire (es : List Event) : (s.taking es).wire = s.wire := rfl
@[simp] theorem taking_fcnt (es : List Event) : (s.taking es).fcnt = s.fcnt := rfl
@[simp] theorem taking_lb (es : List Event) : (s.taking es).lb = s.lb := rfl
@[simp] theorem taking_cfg (es : List Event) : (s.taking es).cfg = s.cfg := rfl
@[simp] theorem taking_cfgIn (es : List Event) : (s.taking es).cfgIn = s.cfgIn := rfl
@[simp] theorem taking_reqFrame (es : List Event) : (s.taking es).reqFrame = s.reqFrame := rfl
@[simp] theorem taking_reqDebug (es : List Event) : (s.taking es).reqDebug = s.reqDebug := rfl
@[simp] theorem taking_text (es : List Event) : (s.taking es).text = s.text := rfl
@[simp] theorem taking_hostFrame (es : List Event) : (s.taking es).hostFrame = s.hostFrame := rfl
@[simp] theorem taking_out (es : List Event) : (s.taking es).out = Outputs.quiet := rfl
@[simp] theorem taking_schedule (es : List Event) : (s.taking es).schedule = es := rfl
@[simp] theorem taking_op (es : List Event) : (s.taking es).op = s.op := rfl
@[simp] theorem taking_draws (es : List Event) : (s.taking es).draws = s.draws := rfl

end Sys2Proof.Machine
end

