-- ==== Sys2Proof/Laws/Ops.lean ====
section
/-! SUPPORT. Laws/Ops.lean: for each shared operation, what it can do, said once. -/

namespace Sys2Proof.Machine

open Sys2Proof

/-! ## Sequencing -/

@[simp] theorem andThen_of_next (s : State) (k : State → StepResult) : andThen (.next s) k = k s := rfl
@[simp] theorem andThen_of_fault (f : Fault) (k : State → StepResult) : andThen (.fault f) k = .fault f := rfl
@[simp] theorem andThen_of_refused (r : Refusal) (k : State → StepResult) : andThen (.refused r) k = .refused r := rfl

/-- A sequence that answers a next state went through a next state of its first part. -/
theorem andThen_next {o : StepResult} {k : State → StepResult} {t : State} (h : andThen o k = .next t) :
    ∃ m, o = .next m ∧ k m = .next t := by
  cases o with
  | next m => exact ⟨m, rfl, h⟩
  | fault f => cases h
  | refused r => cases h

/-- A sequence faults in its first part, or in its second after a next state. -/
theorem andThen_fault {o : StepResult} {k : State → StepResult} {f : Fault} (h : andThen o k = .fault f) :
    o = .fault f ∨ ∃ m, o = .next m ∧ k m = .fault f := by
  cases o with
  | next m => exact .inr ⟨m, rfl, h⟩
  | fault g => exact .inl h
  | refused r => cases h

/-! ## Memory -/

/-- A read after a write to the same index gives the byte written. -/
@[simp] theorem memRead_memWrite_self (m : Memory) (i : Nat) (v : Byte) : memRead (memWrite m i v) i = some v := by
  induction m with
  | nil => simp [memWrite, memRead]
  | cons c m ih =>
    obtain ⟨a, x⟩ := c
    simp only [memWrite]
    split
    · simp [memRead]
    · split
      · simp [memRead]
      · next h => simp [memRead, h, ih]

/-- A write leaves every other index alone. -/
theorem memRead_memWrite_ne (m : Memory) {i j : Nat} (v : Byte) (h : j ≠ i) :
    memRead (memWrite m i v) j = memRead m j := by
  induction m with
  | nil => simp [memWrite, memRead, h]
  | cons c m ih =>
    obtain ⟨a, x⟩ := c
    simp only [memWrite]
    split
    · simp [memRead, h]
    · split
      · next ha => subst ha; simp [memRead, h]
      · simp [memRead, ih]

/-- The cells after a write are the cell written and cells that were there. -/
theorem mem_memWrite {m : Memory} {i : Nat} {v : Byte} {c : Host.Cell} (h : c ∈ memWrite m i v) :
    c = (i, v) ∨ c ∈ m := by
  induction m with
  | nil => simpa [memWrite] using h
  | cons d m ih =>
    obtain ⟨a, x⟩ := d
    simp only [memWrite] at h
    split at h
    · simpa using h
    · split at h
      · rcases List.mem_cons.mp h with h | h
        · exact .inl h
        · exact .inr (List.mem_cons_of_mem _ h)
      · rcases List.mem_cons.mp h with h | h
        · exact .inr (h ▸ List.mem_cons_self)
        · exact (ih h).imp id (List.mem_cons_of_mem _)

/-- A write keeps the canonical form. -/
theorem memWrite_wf {m : Memory} (i : Nat) (v : Byte) (h : Memory.wf m) : Memory.wf (memWrite m i v) := by
  induction m with
  | nil => simp [memWrite, Memory.wf]
  | cons d m ih =>
    obtain ⟨a, x⟩ := d
    have hp := List.pairwise_cons.mp h
    simp only [memWrite]
    split
    · next hi =>
      refine List.pairwise_cons.mpr ⟨fun c hc => ?_, h⟩
      rcases List.mem_cons.mp hc with rfl | hc
      · exact hi
      · exact Nat.lt_trans hi (hp.1 c hc)
    · split
      · next hi hia => subst hia; exact List.pairwise_cons.mpr ⟨hp.1, hp.2⟩
      · next hi hia =>
        refine List.pairwise_cons.mpr ⟨fun c hc => ?_, ih hp.2⟩
        rcases mem_memWrite hc with rfl | hc
        · show a < i; omega
        · exact hp.1 c hc

/-- A write inside a range keeps every cell inside it. -/
theorem memWrite_range {m : Memory} {i n : Nat} (v : Byte) (hi : i < n) (h : ∀ c ∈ m, c.1 < n) :
    ∀ c ∈ memWrite m i v, c.1 < n := by
  intro c hc
  rcases mem_memWrite hc with rfl | hc
  · exact hi
  · exact h c hc

/-- A byte that can be read can still be read after a write. -/
theorem memRead_isSome_memWrite {m : Memory} {i j : Nat} (v : Byte) (h : (memRead m j).isSome = true) :
    (memRead (memWrite m i v) j).isSome = true := by
  by_cases e : j = i
  · subst e; simp
  · rw [memRead_memWrite_ne m v e]; exact h

/-- The reset memory has the canonical form. -/
theorem reset_memory_wf : Memory.wf State.reset.lb := by decide

/-! ## LB -/

/-- Reading a captured byte of LB goes on with that byte. -/
theorem readLb_captured {s : State} {i : Nat} {b : Byte} (k : Byte → StepResult) (hr : i < lineBytes s.cfg)
    (hc : i < s.cap.toNat) (hb : memRead s.lb i = some b) : readLb s i k = k b := by
  simp [readLb, Nat.not_le.mpr hr, Nat.not_le.mpr hc, hb]

/-- A read of LB that answers a next state read a captured byte. -/
theorem readLb_next {s t : State} {i : Nat} {k : Byte → StepResult} (h : readLb s i k = .next t) :
    ∃ b, i < lineBytes s.cfg ∧ i < s.cap.toNat ∧ memRead s.lb i = some b ∧ k b = .next t := by
  unfold readLb at h
  split at h
  · cases h
  · split at h
    · cases h
    · split at h
      · rename_i hr hc _ b hb; exact ⟨b, Nat.not_le.mp hr, Nat.not_le.mp hc, hb, h⟩
      · cases h

/-! ## The ends of commands, frames and lines -/

/-- The end of the frame-start command of an empty frame (R150). -/
theorem endHeader_empty {s : State} (h : s.cfg.height = 0) : s.endHeader = (s.setRow 0).endFrame :=
  if_pos h

/-- The end of the frame-start command of a frame with lines (R150, R116). -/
theorem endHeader_lines {s : State} (h : s.cfg.height ≠ 0) : s.endHeader = (s.setRow 0).startLine :=
  if_neg h

/-- The end of the last line (R126, R151). -/
theorem endLine_last {s : State} (h : s.row + 1 = s.cfg.height) :
    s.endLine = (s.setRow (s.row + 1)).endFrame :=
  if_pos h

/-- The end of a line that is not the last (R126, R116). -/
theorem endLine_next {s : State} (h : s.row + 1 ≠ s.cfg.height) :
    s.endLine = (s.setRow (s.row + 1)).startLine :=
  if_neg h

/-! ## Lengths and cursors -/

/-- A debug-text length is 1 to 254 (R64). -/
theorem debugLength_iff (n : Nat) : debugLength n = true ↔ 1 ≤ n ∧ n ≤ 254 := by
  unfold debugLength debugTextMax; exact decide_eq_true_iff

/-- A line fits the 17-bit cursors (R18, R19). -/
theorem lineBytes_lt (c : Cfg) : lineBytes c < 2 ^ 17 := by
  have := c.width.isLt
  unfold lineBytes; omega

/-- A cursor inside the line does not wrap. -/
theorem cursor_succ {x : BitVec 17} {c : Cfg} (h : x.toNat < lineBytes c) : (x + 1).toNat = x.toNat + 1 := by
  have := lineBytes_lt c
  rw [BitVec.toNat_add, show (1 : BitVec _).toNat = 1 from rfl]; omega

/-- CIDX does not wrap inside a command. -/
theorem index_succ {x : BitVec 9} (h : x.toNat < 511) : (x + 1).toNat = x.toNat + 1 := by
  rw [BitVec.toNat_add, show (1 : BitVec _).toNat = 1 from rfl]; omega

/-- ROW does not wrap before the last line. -/
theorem row_succ {x : BitVec 16} {c : Cfg} (h : x.toNat < c.height.toNat) : (x + 1).toNat = x.toNat + 1 := by
  have := c.height.isLt
  rw [BitVec.toNat_add, show (1 : BitVec _).toNat = 1 from rfl]; omega

/-! ## The selectors as they read the state -/

/-- The work unit by FMT and the link (R74). -/
theorem workUnit_eq (s : State) :
    workUnit s = if s.fmt then (if ready s then .send else .skip) else .format := by
  unfold workUnit workVector
  generalize s.fmt = b
  generalize ready s = c
  revert b c; decide

/-- The drain step by `more`, FMT and the link (R75). -/
theorem drainUnit_eq (s : State) :
    drainUnit s = if more s then (if s.fmt then (if ready s then .send else .hold) else .format) else .lineEnd := by
  unfold drainUnit drainVector
  generalize more s = a
  generalize s.fmt = b
  generalize ready s = c
  revert a b c; decide

/-- The grant by TPEND and the request lines (R73). -/
theorem grant_eq (s : State) :
    grant s = if s.tpend then .tick else if s.reqFrame then .frame
      else if s.reqDebug.isSome then .debug else .idle := by
  unfold grant requestVector
  generalize s.tpend = a
  generalize s.reqFrame = b
  generalize s.reqDebug.isSome = c
  revert a b c; decide

/-! ## A command byte -/

/-- What emitting a byte of a command does (R102): the hand-over, a possible accumulation, then the end of the command
or the next index. -/
theorem emitByte_eq (s : State) (b : Byte) : ∃ u : State,
    u = { s with txd := b, txbusy := true, wire := s.wire ++ [b], out := { s.out with txValid := true },
                 cks := if 2 ≤ s.cidx.toNat ∧ s.cidx.toNat < lastIndex s then s.cks ^^^ b else s.cks } ∧
    s.emitByte b = if s.cidx.toNat = lastIndex s then u.endCommand else { u with cidx := s.cidx + 1 } := by
  refine ⟨if 2 ≤ s.cidx.toNat ∧ s.cidx.toNat < lastIndex s then (s.handOver b).accumulate b else s.handOver b,
    ?_, rfl⟩
  split <;> rfl

/-! ## Formatting -/

@[simp] theorem toggle_toggle (h : HighLow) : toggle (toggle h) = h := by cases h <;> rfl

/-- A formatted byte is legal for the role that selects the function (R68, R86). -/
theorem fmtBy_legal (i : Nat) (h : HighLow) (b : Byte) (hi : h = .high ↔ i % 2 = 0) :
    legalPixel i (fmtBy h b) = true := by
  have hb : ∀ b : Byte, isHighPattern (fmtHigh b) = true ∧ isLowPattern (fmtLow b) = true := by decide
  cases h with
  | high => simp [legalPixel, fmtBy, hi.mp rfl, (hb b).1]
  | low =>
    have : ¬ i % 2 = 0 := fun e => by cases hi.mpr e
    simp [legalPixel, fmtBy, this, (hb b).2]

/-! ## Holds -/

/-- Where SEQ holds for the link no line may start (R97, R163). -/
theorem lineMayStart_of_stall {s : State} (h : channelStall s = true) : lineMayStart s = false := by
  unfold channelStall at h
  unfold lineMayStart
  cases hp : s.ph <;> simp_all [ready, more]
  omega

/-- No operation but LINK_DONE and RESET leads out of a hold (R97, R135, R163); a composite one runs the block's own
steps. -/
theorem exec_keeps_stall {i : Instr} {s t : State} (h : channelStall s = true) (hi : isComposite i = false)
    (hl : i ≠ .linkDone) (hr : i ≠ .reset) (ht : exec i s = .next t) :
    t.ph = s.ph ∧ t.txbusy = true ∧ t.wire = s.wire ∧ t.cidx = s.cidx ∧ t.snd = s.snd ∧ t.fmt = s.fmt := by
  have hm := lineMayStart_of_stall h
  have hb : s.txbusy = true := by unfold channelStall at h; simp_all
  have hp : s.ph = .cmd ∨ s.ph = .lTx ∨ (s.ph = .lDrain ∧ more s = true ∧ s.fmt = true) := by
    unfold channelStall at h; simp_all; tauto
  have hd : s.ph = .lDrain → s.snd.toNat ≠ lineBytes s.cfg ∧ s.fmt = true := by
    rcases hp with e | e | ⟨e, e1, e2⟩ <;> intro e'
    · simp [e] at e'
    · simp [e] at e'
    · exact ⟨by simp [more] at e1; omega, e2⟩
  have h1 : s.ph ≠ .idle := by rcases hp with e | e | ⟨e, _⟩ <;> simp [e]
  have h2 : s.ph ≠ .lPre := by rcases hp with e | e | ⟨e, _⟩ <;> simp [e]
  have h3 : s.ph ≠ .lPost := by rcases hp with e | e | ⟨e, _⟩ <;> simp [e]
  have h4 : s.ph ≠ .lAct := by rcases hp with e | e | ⟨e, _⟩ <;> simp [e]
  cases i <;> simp only [isComposite, Bool.true_eq_false, ne_eq, not_true_eq_false, reduceCtorEq] at hi hl hr <;>
    simp only [exec, execFmtHigh, execFmtLow, execTxReady, execTxSend, execTxTry, execCksReset, execCksAcc, execCmdByte,
      execLineStart, execPadPre, execEdgeCapture, execEdgeFormat, execEdgeSend, execEdgeSkip, execEdgeEnd, execPadPost,
      execDrainFormat, execDrainSend, execLineEnd, execDirRead, execDirSend, execReqFrame, execFrameAccept, execReqDebug,
      execDebugAccept, execDebugEmpty, execTick, execTickAccept, hb, hm, h1, h2, h3, h4, if_true, if_false, and_false,
      false_and, Bool.false_eq_true, Bool.true_eq_false] at ht
  all_goals try (cases ht; simp [hb])
  · rw [if_neg (fun c => by simp [(hd c.1).2] at c)] at ht
    cases ht; simp [hb]
  · rw [if_neg (fun c => (hd c.1).1 c.2)] at ht
    cases ht; simp [hb]

/-! ## Running the block -/

/-- A property that every atomic step of the block keeps is kept by a run of them. -/
theorem drive_keeps {P : State → Prop} (going : State → Bool)
    (hstep : ∀ s t, P s → blockStep s = .next t → P t) :
    ∀ (fuel : Nat) (s t : State), P s → drive going fuel s = .next t → P t := by
  intro fuel
  induction fuel with
  | zero => intro s t hs h; cases h; exact hs
  | succ n ih =>
    intro s t hs h
    simp only [drive] at h
    split at h
    · obtain ⟨m, hm, hk⟩ := andThen_next h
      exact ih m t (hstep s m hs hm) hk
    · cases h; exact hs

/-- A step of the block with an event scheduled takes that event. -/
theorem blockStep_cons {s : State} {e : Event} {rest : List Event} (h : s.schedule = e :: rest) :
    blockStep s = eventStep e (s.taking rest) := by
  simp only [blockStep, h]; rfl

/-- A step of the block with nothing scheduled is a step of SEQ. -/
theorem blockStep_nil {s : State} (h : s.schedule = []) : blockStep s = seqStep s.quiet := by
  simp only [blockStep, h]

/-- With an empty operation port a step of the machine is a step of the block. -/
theorem step_of_empty_port {s : State} (h : s.op = []) : step s = blockStep s := by
  simp only [step, fetchOp, h]

end Sys2Proof.Machine
end

