-- ==== Sys2Proof/Laws/PerInstr.lean ====
section
/-! SUPPORT. Laws/PerInstr.lean: what holds of every operation as syntax, one lemma per constructor. -/

open Sys2Proof

/-- Every operation has a word: its encoding is not the empty list. -/
def Sys2Proof.Laws.EncodeNonempty.Statement (i : Instr) : Prop := encode i ≠ []

theorem Sys2Proof.Laws.EncodeNonempty.fmtHigh (b : Byte) :
    Sys2Proof.Laws.EncodeNonempty.Statement (.fmtHigh b) := List.cons_ne_nil _ _
theorem Sys2Proof.Laws.EncodeNonempty.fmtLow (b : Byte) :
    Sys2Proof.Laws.EncodeNonempty.Statement (.fmtLow b) := List.cons_ne_nil _ _
theorem Sys2Proof.Laws.EncodeNonempty.txReady :
    Sys2Proof.Laws.EncodeNonempty.Statement .txReady := List.cons_ne_nil _ _
theorem Sys2Proof.Laws.EncodeNonempty.txSend (b : Byte) :
    Sys2Proof.Laws.EncodeNonempty.Statement (.txSend b) := List.cons_ne_nil _ _
theorem Sys2Proof.Laws.EncodeNonempty.txTry (b : Byte) :
    Sys2Proof.Laws.EncodeNonempty.Statement (.txTry b) := List.cons_ne_nil _ _
theorem Sys2Proof.Laws.EncodeNonempty.linkDone :
    Sys2Proof.Laws.EncodeNonempty.Statement .linkDone := List.cons_ne_nil _ _
theorem Sys2Proof.Laws.EncodeNonempty.cksReset :
    Sys2Proof.Laws.EncodeNonempty.Statement .cksReset := List.cons_ne_nil _ _
theorem Sys2Proof.Laws.EncodeNonempty.cksAcc (b : Byte) :
    Sys2Proof.Laws.EncodeNonempty.Statement (.cksAcc b) := List.cons_ne_nil _ _
theorem Sys2Proof.Laws.EncodeNonempty.cmdByte :
    Sys2Proof.Laws.EncodeNonempty.Statement .cmdByte := List.cons_ne_nil _ _
theorem Sys2Proof.Laws.EncodeNonempty.cmdNewframe (w h : BitVec 10) (f : BitVec 4) :
    Sys2Proof.Laws.EncodeNonempty.Statement (.cmdNewframe w h f) := List.cons_ne_nil _ _
theorem Sys2Proof.Laws.EncodeNonempty.cmdDebug (text : List Byte) :
    Sys2Proof.Laws.EncodeNonempty.Statement (.cmdDebug text) := List.cons_ne_nil _ _
theorem Sys2Proof.Laws.EncodeNonempty.lineStart :
    Sys2Proof.Laws.EncodeNonempty.Statement .lineStart := List.cons_ne_nil _ _
theorem Sys2Proof.Laws.EncodeNonempty.padPre :
    Sys2Proof.Laws.EncodeNonempty.Statement .padPre := List.cons_ne_nil _ _
theorem Sys2Proof.Laws.EncodeNonempty.edgeCapture (r : Byte) :
    Sys2Proof.Laws.EncodeNonempty.Statement (.edgeCapture r) := List.cons_ne_nil _ _
theorem Sys2Proof.Laws.EncodeNonempty.edgeFormat :
    Sys2Proof.Laws.EncodeNonempty.Statement .edgeFormat := List.cons_ne_nil _ _
theorem Sys2Proof.Laws.EncodeNonempty.edgeSend :
    Sys2Proof.Laws.EncodeNonempty.Statement .edgeSend := List.cons_ne_nil _ _
theorem Sys2Proof.Laws.EncodeNonempty.edgeSkip :
    Sys2Proof.Laws.EncodeNonempty.Statement .edgeSkip := List.cons_ne_nil _ _
theorem Sys2Proof.Laws.EncodeNonempty.edgeEnd :
    Sys2Proof.Laws.EncodeNonempty.Statement .edgeEnd := List.cons_ne_nil _ _
theorem Sys2Proof.Laws.EncodeNonempty.padPost :
    Sys2Proof.Laws.EncodeNonempty.Statement .padPost := List.cons_ne_nil _ _
theorem Sys2Proof.Laws.EncodeNonempty.drainFormat :
    Sys2Proof.Laws.EncodeNonempty.Statement .drainFormat := List.cons_ne_nil _ _
theorem Sys2Proof.Laws.EncodeNonempty.drainSend :
    Sys2Proof.Laws.EncodeNonempty.Statement .drainSend := List.cons_ne_nil _ _
theorem Sys2Proof.Laws.EncodeNonempty.lineEnd :
    Sys2Proof.Laws.EncodeNonempty.Statement .lineEnd := List.cons_ne_nil _ _
theorem Sys2Proof.Laws.EncodeNonempty.lineBuf :
    Sys2Proof.Laws.EncodeNonempty.Statement .lineBuf := List.cons_ne_nil _ _
theorem Sys2Proof.Laws.EncodeNonempty.dirRead (r : Byte) :
    Sys2Proof.Laws.EncodeNonempty.Statement (.dirRead r) := List.cons_ne_nil _ _
theorem Sys2Proof.Laws.EncodeNonempty.dirSend :
    Sys2Proof.Laws.EncodeNonempty.Statement .dirSend := List.cons_ne_nil _ _
theorem Sys2Proof.Laws.EncodeNonempty.lineDir :
    Sys2Proof.Laws.EncodeNonempty.Statement .lineDir := List.cons_ne_nil _ _
theorem Sys2Proof.Laws.EncodeNonempty.reqFrame :
    Sys2Proof.Laws.EncodeNonempty.Statement .reqFrame := List.cons_ne_nil _ _
theorem Sys2Proof.Laws.EncodeNonempty.frameAccept :
    Sys2Proof.Laws.EncodeNonempty.Statement .frameAccept := List.cons_ne_nil _ _
theorem Sys2Proof.Laws.EncodeNonempty.reqDebug (text : List Byte) :
    Sys2Proof.Laws.EncodeNonempty.Statement (.reqDebug text) := List.cons_ne_nil _ _
theorem Sys2Proof.Laws.EncodeNonempty.debugAccept (n : BitVec 16) :
    Sys2Proof.Laws.EncodeNonempty.Statement (.debugAccept n) := List.cons_ne_nil _ _
theorem Sys2Proof.Laws.EncodeNonempty.debugEmpty :
    Sys2Proof.Laws.EncodeNonempty.Statement .debugEmpty := List.cons_ne_nil _ _
theorem Sys2Proof.Laws.EncodeNonempty.tick :
    Sys2Proof.Laws.EncodeNonempty.Statement .tick := List.cons_ne_nil _ _
theorem Sys2Proof.Laws.EncodeNonempty.tickAccept :
    Sys2Proof.Laws.EncodeNonempty.Statement .tickAccept := List.cons_ne_nil _ _
theorem Sys2Proof.Laws.EncodeNonempty.frame :
    Sys2Proof.Laws.EncodeNonempty.Statement .frame := List.cons_ne_nil _ _
theorem Sys2Proof.Laws.EncodeNonempty.reset :
    Sys2Proof.Laws.EncodeNonempty.Statement .reset := List.cons_ne_nil _ _
end

