-- ==== Sys2Proof/Tests/Slice0.lean ====
section
/-! SUPPORT. Tests/Slice0.lean: small tests by `decide`. Expected values are the spec's: 95_test_vectors.md where a
comment names it (S1 to S10, section 3, programs P1 to P7), else worked out by hand from the rule named. The last part
gives, for every obligation with hypotheses, a state that meets them ("witness_<name>"). -/

namespace Sys2Proof.Tests

open Sys2Proof Sys2Proof.Machine

/-! ## Helpers -/

/-- The next state, if there is one. -/
def after : StepResult → Option State
  | .next s => some s
  | .fault _ => none
  | .refused _ => none

/-- The fault, if there is one. -/
def faultOf : StepResult → Option Fault
  | .next _ => none
  | .fault f => some f
  | .refused _ => none

/-- The refusal, if there is one. -/
def refusalOf : StepResult → Option Refusal
  | .next _ => none
  | .fault _ => none
  | .refused r => some r

/-- A small configuration. -/
def cfgOf (w h : BitVec 16) (f : Byte) (st : Strat) : Cfg := { width := w, height := h, pixfmt := f, strat := st }

/-- The reset state under a configuration, in a phase of a transaction. -/
def at' (c : Cfg) (p : Phase) (x : Txn) : State := { State.reset with cfg := c, cfgIn := c, ph := p, txn := x }

/-- Width 2, height 1, pixel format 1 (programs P1, P2, P7). -/
def buf2 : Cfg := cfgOf 2 1 1 .buf

/-- The same, direct. -/
def dir2 : Cfg := cfgOf 2 1 1 .dir

/-- A buffered line of width 1, its first byte captured and formatted, in the active window. -/
def midLine : State :=
  { at' (cfgOf 1 1 0 .buf) .lAct .frame with
      cap := 1, fmt := true, hl := .low, lb := [(0, 0x08)], wire := frameCommand (cfgOf 1 1 0 .buf) }

/-! ## WellFormed: each check refuses an ill-formed term -/

theorem test_wf_cmdDebug_empty : wellFormed (.cmdDebug []) = false := by decide
theorem test_wf_cmdDebug_long : wellFormed (.cmdDebug (List.replicate 255 0x41)) = false := by decide +kernel
theorem test_wf_reqDebug_long : wellFormed (.reqDebug (List.replicate 255 0x41)) = false := by decide +kernel
theorem test_wf_debugAccept_zero : wellFormed (.debugAccept 0) = false := by decide
theorem test_wf_debugAccept_long : wellFormed (.debugAccept 255) = false := by decide
theorem test_wf_admits :
    wellFormed (.cmdDebug (List.replicate 254 0x41)) = true ∧ wellFormed (.reqDebug []) = true ∧
      wellFormed (.debugAccept 254) = true := by decide +kernel

/-! ## Decoding: words written out by hand -/

/-- FN: a formatted high byte has bit 3 the complement of bit 5, `0010_0000` and `0000_1000`; a formatted low byte has
bits 5 and 3 equal and bit 0 set, `0010_1001` (R68). Any operand at all follows the model's tag. -/
theorem test_decode_fn :
    decode [0b00100000] = .ok (.fmtHigh 0x20, []) ∧ decode [0b00001000] = .ok (.fmtHigh 0x08, []) ∧
      decode [0b00101001] = .ok (.fmtLow 0x29, []) ∧ decode [0b00000001] = .ok (.fmtLow 0x01, []) ∧
      decode [0x02, 0xFF] = .ok (.fmtHigh 0xFF, []) ∧ decode [0x04, 0xFF] = .ok (.fmtLow 0xFF, []) := by decide

/-- CH: `tx_valid = 1` before TX_SEND's data, LINK_DONE's event line 1. -/
theorem test_decode_ch :
    decode [0x06] = .ok (.txReady, []) ∧ decode [0x10, 1, 0x5A] = .ok (.txSend 0x5A, []) ∧
      decode [0x12, 0x5A] = .ok (.txTry 0x5A, []) ∧ decode [0x14, 1] = .ok (.linkDone, []) := by decide

/-- WIRE: S7; the derived vectors of sections 3.4 and 3.5 (640 x 480 format 2, the text `[13]` with checksum `00`). -/
theorem test_decode_wire :
    decode [0x00] = .ok (.cksReset, []) ∧ decode [0x16, 0x40] = .ok (.cksAcc 0x40, []) ∧
      decode [0x40] = .ok (.cmdByte, []) ∧
      decode [0x00, 0x04, 0x11, 0x40, 0xF0, 0x11, 0xB0] = .ok (.cmdNewframe 320 240 1, []) ∧
      decode [0x00, 0x04, 0x11, 0x80, 0xE0, 0x26, 0x57] = .ok (.cmdNewframe 640 480 2, []) ∧
      decode [0x00, 0x02, 0x13, 0x13, 0x00] = .ok (.cmdDebug [0x13], []) := by decide

/-- UOP: the work-unit selector `{FMT, rdy}` (R74: `00`, `01` format, `11` send, `10` skip) and the drain selector
`{more, FMT, rdy}` (R75: `0xx` line end, `10x` format, `111` send). -/
theorem test_decode_uop_selectors :
    decode [0x50, 0b00] = .ok (.edgeFormat, []) ∧ decode [0x50, 0b01] = .ok (.edgeFormat, []) ∧
      decode [0x50, 0b11] = .ok (.edgeSend, []) ∧ decode [0x50, 0b10] = .ok (.edgeSkip, []) ∧
      decode [0x56, 0b000] = .ok (.lineEnd, []) ∧ decode [0x56, 0b011] = .ok (.lineEnd, []) ∧
      decode [0x56, 0b100] = .ok (.drainFormat, []) ∧ decode [0x56, 0b101] = .ok (.drainFormat, []) ∧
      decode [0x56, 0b111] = .ok (.drainSend, []) ∧ decode [0x56, 0b110] = .error (.noSelection 0b110) := by decide

/-- UOP: the rows under tags of the model (log 2). -/
theorem test_decode_uop_tags :
    decode [0x42] = .ok (.lineStart, []) ∧ decode [0x44] = .ok (.padPre, []) ∧
      decode [0x46, 0xAA] = .ok (.edgeCapture 0xAA, []) ∧ decode [0x52] = .ok (.edgeEnd, []) ∧
      decode [0x54] = .ok (.padPost, []) ∧ decode [0x80] = .ok (.lineBuf, []) ∧
      decode [0x82, 0xAA] = .ok (.dirRead 0xAA, []) ∧ decode [0x84, 1] = .ok (.dirSend, []) ∧
      decode [0x86] = .ok (.lineDir, []) := by decide

/-- REQ: the request vector `{TPEND, req_frame, req_debug}` (R73: `1xx`, `01x`, `001`), and the tags of the rest. -/
theorem test_decode_req :
    decode [0x90, 0b100] = .ok (.tickAccept, []) ∧ decode [0x90, 0b111] = .ok (.tickAccept, []) ∧
      decode [0x90, 0b010] = .ok (.reqFrame, []) ∧ decode [0x90, 0b011] = .ok (.reqFrame, []) ∧
      decode [0x90, 0b001, 2, 0, 0x4F, 0x4B] = .ok (.reqDebug [0x4F, 0x4B], []) ∧
      decode [0x90, 0b000] = .error (.noSelection 0) := by decide

/-- REQ: the rest. -/
theorem test_decode_req_tags :
    decode [0x92] = .ok (.frameAccept, []) ∧
      decode [0x94, 7, 0] = .ok (.debugAccept 7, []) ∧ decode [0x96] = .ok (.debugEmpty, []) ∧
      decode [0xC0, 1] = .ok (.tick, []) ∧ decode [0xC2] = .ok (.frame, []) ∧
      decode [0xC4, 1] = .ok (.reset, []) := by decide

/-- What is no word is rejected by name: a wrong checksum (the source's literal of S8), a reserved command code (R70), a
frame-start body of the wrong length, an unasserted signal, an unknown byte, nothing at all. -/
theorem test_decode_rejects :
    decode [0x00, 0x08, 0x13, 0x46, 0x72, 0x61, 0x6D, 0x65, 0x20, 0x31, 0x2D] = .error (.badChecksum 0x2D) ∧
      decode [0x00, 0x01, 0x12, 0x12] = .error (.reservedCode 0x12) ∧
      decode [0x00, 0x01, 0x11, 0x11] = .error (.badLength 1) ∧ decode [0xC4, 0] = .error (.notAsserted 0) ∧
      decode [0xD6] = .error (.unknownTag 0xD6) ∧ decode [0x10, 1] = .error .truncated ∧
      decode [] = .error .empty := by decide

/-- Encoding gives the vectors of section 3.4 (255 x 255 format 15) and 3.5 ("OK"). -/
theorem test_encode_wire :
    encode (.cmdNewframe 255 255 15) = [0x00, 0x04, 0x11, 0xFF, 0xFF, 0xF0, 0xE1] ∧
      encode (.cmdDebug [0x4F, 0x4B]) = [0x00, 0x03, 0x13, 0x4F, 0x4B, 0x17] := by decide

/-- The two rows to which the opcode table gives bits: FMT_LOW's bit 0, CKS_RESET's byte. -/
theorem test_decodeTableWord :
    decodeTableWord 8 1 = some (.fmtLow 1) ∧ decodeTableWord 8 0 = some .cksReset := by decide

theorem test_withFetchWord_fmtLow :
    (after (step (State.reset.withFetchWord 8 1))).map (fun t => t.out.result) = some (.byte 0x01) := by decide
theorem test_withFetchWord_cksReset :
    (after (step (State.reset.withFetchWord 8 0))).map (fun t => t.op) = some [] := by decide
theorem test_withFetchWord_undecodable :
    refusalOf (step (State.reset.withFetchWord 8 0xD6)) = some (.undecodable (.unknownTag 0xD6)) := by decide

/-! ## The reformatter -/

/-- Section 3.1, the sixteen inputs and the column FMT_HIGH. -/
theorem test_fmtHigh_vectors :
    [0x00, 0x01, 0x08, 0x10, 0x20, 0x28, 0x29, 0x40, 0x5A, 0x7F, 0x80, 0xA5, 0xD7, 0xF7, 0xF8, 0xFF].map fmtHigh =
      [0x08, 0x09, 0x08, 0x18, 0x20, 0x20, 0x21, 0x48, 0x5A, 0x77, 0x88, 0xA5, 0xDF, 0xF7, 0xF0, 0xF7] := by decide

/-- Section 3.1, the column FMT_LOW. -/
theorem test_fmtLow_vectors :
    [0x00, 0x01, 0x08, 0x10, 0x20, 0x28, 0x29, 0x40, 0x5A, 0x7F, 0x80, 0xA5, 0xD7, 0xF7, 0xF8, 0xFF].map fmtLow =
      [0x01, 0x01, 0x29, 0x11, 0x01, 0x29, 0x29, 0x41, 0x7B, 0x7F, 0x81, 0x85, 0xD7, 0xD7, 0xF9, 0xFF] := by decide

/-- Section 3.1: the masked parity of the results is odd for a high byte, even for a low one (R83). -/
theorem test_maskedParity : maskedParity (fmtHigh 0x5A) = true ∧ maskedParity (fmtLow 0x5A) = false := by decide

/-- Section 3.6: the line `12 34 56 78 9A BC DE F0` on the wire. -/
theorem test_formatLine :
    formatLine .high [0x12, 0x34, 0x56, 0x78, 0x9A, 0xBC, 0xDE, 0xF0] =
      [0x1A, 0x15, 0x5E, 0x79, 0x9A, 0xBD, 0xDE, 0xD1] := by decide

/-- Section 3.1, pixels end to end. -/
theorem test_pixelBytes :
    formatLine .high (pixelBytes 0x0000) = [0x08, 0x01] ∧ formatLine .high (pixelBytes 0xFFFF) = [0xF7, 0xFF] ∧
      formatLine .high (pixelBytes 0x2008) = [0x20, 0x29] ∧ formatLine .high (pixelBytes 0x0820) = [0x08, 0x01] := by
  decide

/-! ## The channel (section 3.2) -/

theorem test_txReady_true :
    (after (exec .txReady State.reset)).map (fun t => t.out.result) = some (.bit true) := by decide
theorem test_txReady_false :
    (after (exec .txReady { State.reset with txbusy := true })).map (fun t => t.out.result) = some (.bit false) := by
  decide
theorem test_txSend :
    (after (exec (.txSend 0x00) State.reset)).map (fun t => (t.txd, t.txbusy, t.wire)) = some (0x00, true, [0x00]) := by
  decide
theorem test_txSend_waits :
    (after (step { State.reset with txbusy := true, txd := 0x00, op := [0x10, 1, 0x04], schedule := [.linkDone] })).map
      (fun t => (t.txbusy, t.wire, t.op)) = some (false, [], [0x10, 1, 0x04]) := by decide
theorem test_txTry_success :
    (after (exec (.txTry 0x04) { State.reset with wire := [0x00] })).map
      (fun t => (t.wire, t.out.result)) = some ([0x00, 0x04], .bit true) := by decide
theorem test_txTry_fail :
    (after (exec (.txTry 0x04) { State.reset with wire := [0x00], txbusy := true })).map
      (fun t => (t.wire, t.out.result)) = some ([0x00], .bit false) := by decide
theorem test_linkDone :
    (after (exec .linkDone { State.reset with txd := 0x5A, txbusy := true })).map
      (fun t => (t.txd, t.txbusy)) = some (0x5A, false) := by decide
theorem test_linkDone_not_enabled : after (exec .linkDone State.reset) = some State.reset := by decide

/-! ## Commands (section 3.3 to 3.5) -/

theorem test_cksReset :
    (after (exec .cksReset { State.reset with cks := 0x5F })).map (fun t => t.cks) = some 0x00 := by decide
theorem test_cksAcc :
    (after (exec (.cksAcc 0xF0) { State.reset with cks := 0x51 })).map (fun t => t.cks) = some 0xA1 := by decide

/-- P2's command, byte 5: the packed byte `10` of W = 2, H = 1, F = 1. -/
theorem test_cmdByte_packed :
    (after (exec .cmdByte { at' buf2 .cmd .frame with cidx := 5, cks := 0x12 })).map
      (fun t => (t.wire, t.cks, t.cidx)) = some ([0x10], 0x02, 6) := by decide

/-- P5, row 15: the last byte of the command of a frame of height 0. -/
theorem test_cmdByte_empty_frame :
    (after (exec .cmdByte { at' (cfgOf 3 0 0 .buf) .cmd .frame with cidx := 6, cks := 0x12 })).map
      (fun t => (t.ph, t.txn, t.row, t.wire)) = some (.idle, .none, 0, [0x12]) := by decide

/-- Section 3.4: the truncated fields of 1025 x 3 and of all ones (R105). -/
theorem test_frameCommand :
    frameCommand (cfgOf 1025 3 1 .buf) = [0x00, 0x04, 0x11, 0x01, 0x03, 0x10, 0x03] ∧
      frameCommand (cfgOf 65535 65535 255 .dir) = [0x00, 0x04, 0x11, 0xFF, 0xFF, 0xFF, 0xEE] := by decide

/-- The first two bytes of P2's command; then the sequence waits for the link. -/
theorem test_cmdNewframe :
    (after (exec (.cmdNewframe 2 1 1) { at' buf2 .cmd .frame with schedule := [.seq, .linkDone] })).map
      (fun t => (t.wire, t.cidx, t.txbusy)) = some ([0x00, 0x04], 2, true) := by decide

/-- Other fields than CFG's name no command of the block (log 18). -/
theorem test_cmdNewframe_other_fields :
    after (exec (.cmdNewframe 3 1 1) (at' buf2 .cmd .frame)) = some (at' buf2 .cmd .frame) := by decide

/-- The last two bytes of the command of "A", `41 52`. -/
theorem test_cmdDebug :
    (after (exec (.cmdDebug [0x41]) { at' buf2 .cmd .debug with
        text := [0x41], dlen := 1, cidx := 3, cks := 0x13, schedule := [.seq, .linkDone] })).map
      (fun t => (t.wire, t.ph, t.out.done)) = some ([0x41, 0x52], .idle, true) := by decide
theorem test_cmdDebug_too_long :
    refusalOf (exec (.cmdDebug (List.replicate 255 0x41)) State.reset) = some (.debugTextTooLong 255) := by decide +kernel

/-! ## Lines -/

theorem test_lineStart :
    (after (exec .lineStart { at' buf2 .lDrain .frame with cap := 4, snd := 4, fmt := true, hl := .low })).map
      (fun t => (t.cap, t.snd, t.fmt, t.hl, t.ph)) = some (0, 0, false, .high, .lPre) := by decide

/-- No LINE_START leaves the holds of CMD and L_DRAIN (R97, R163). -/
theorem test_lineStart_in_hold :
    after (exec .lineStart { at' buf2 .cmd .frame with cidx := 6, txbusy := true }) =
        some { at' buf2 .cmd .frame with cidx := 6, txbusy := true } ∧
      after (exec .lineStart { at' buf2 .lDrain .frame with snd := 3, fmt := true, txbusy := true }) =
        some { at' buf2 .lDrain .frame with snd := 3, fmt := true, txbusy := true } := by decide
theorem test_padPre : (after (exec .padPre (at' buf2 .lPre .frame))).map (fun t => t.ph) = some .lAct := by decide

/-- P6, row 16: a line of width 0 has no active window. -/
theorem test_padPre_width_zero :
    (after (exec .padPre (at' (cfgOf 0 2 0 .buf) .lPre .frame))).map (fun t => t.ph) = some .lPost := by decide
theorem test_edgeCapture :
    (after (exec (.edgeCapture 0xAA) { at' buf2 .lAct .frame with cap := 2, lb := [(3, 0x01)] })).map
      (fun t => (t.cap, t.lb)) = some (3, [(2, 0xAA), (3, 0x01)]) := by decide
theorem test_edgeCapture_outside :
    faultOf (exec (.edgeCapture 0xAA) { at' buf2 .lAct .frame with cap := 4 }) = some (.lbOutOfRange 4) := by decide

/-- P2's second byte, HL = LOW: `08` becomes `29` in place (S9). -/
theorem test_edgeFormat :
    (after (exec .edgeFormat { at' buf2 .lAct .frame with
        cap := 2, snd := 1, hl := .low, lb := [(0, 0x08), (1, 0x08)] })).map
      (fun t => (t.lb, t.hl, t.fmt, t.snd)) = some ([(0, 0x08), (1, 0x29)], .high, true, 1) := by decide
theorem test_edgeFormat_not_captured :
    faultOf (exec .edgeFormat (at' buf2 .lAct .frame)) = some (.lbNotCaptured 0) := by decide
theorem test_edgeSend :
    (after (exec .edgeSend midLine)).map (fun t => (t.txd, t.snd, t.fmt, t.lb)) =
      some (0x08, 1, false, [(0, 0x08)]) := by decide
theorem test_edgeSend_link_busy :
    after (exec .edgeSend { midLine with txbusy := true }) = some { midLine with txbusy := true } := by decide
theorem test_edgeSkip : after (exec .edgeSkip midLine) = some midLine := by decide
theorem test_edgeEnd_closes :
    (after (exec .edgeEnd { midLine with cap := 2 })).map (fun t => t.ph) = some .lPost := by decide
theorem test_edgeEnd_stays : after (exec .edgeEnd midLine) = some midLine := by decide
theorem test_padPost : (after (exec .padPost (at' buf2 .lPost .frame))).map (fun t => t.ph) = some .lDrain := by decide
theorem test_drainFormat :
    (after (exec .drainFormat { midLine with
        ph := .lDrain, cap := 2, snd := 1, fmt := false, lb := [(0, 0x08), (1, 0x00)] })).map (fun t => (t.lb, t.hl, t.fmt)) =
      some ([(0, 0x08), (1, 0x01)], .high, true) := by decide
theorem test_drainSend :
    (after (exec .drainSend { midLine with ph := .lDrain, cap := 2 })).map (fun t => (t.txd, t.snd, t.fmt)) =
      some (0x08, 1, false) := by decide

/-- P6, row 19: LINE_END of a line that is not the last. -/
theorem test_lineEnd_next :
    (after (exec .lineEnd (at' (cfgOf 0 2 0 .buf) .lDrain .frame))).map (fun t => (t.row, t.ph, t.txn)) =
      some (1, .lPre, .frame) := by decide

/-- P6, row 22: LINE_END of the last line. -/
theorem test_lineEnd_last :
    (after (exec .lineEnd { at' (cfgOf 0 2 0 .buf) .lDrain .frame with row := 1 })).map (fun t => (t.row, t.ph, t.txn)) =
      some (2, .idle, .none) := by decide

/-- One edge of the buffered strategy as one step: capture, send, end of the window. -/
theorem test_edge_step :
    (after (step { midLine with schedule := [.edge 0x34] })).map (fun t => (t.lb, t.txd, t.snd, t.ph)) =
      some ([(0, 0x08), (1, 0x34)], 0x08, 1, .lPost) := by decide

/-- P6: the line of width 0 by LINE_BUF. -/
theorem test_lineBuf :
    (after (exec .lineBuf { at' (cfgOf 0 2 0 .buf) .lPre .frame with schedule := [.padDone, .padDone] })).map
      (fun t => (t.row, t.ph)) = some (1, .lPre) := by decide

/-- P4, row 52: `DIR.READ 00` gives TMP = 08. -/
theorem test_dirRead :
    (after (exec (.dirRead 0x00) (at' dir2 .lAct .frame))).map (fun t => (t.tmp, t.hl, t.cap, t.ph)) =
      some (0x08, .low, 1, .lTx) := by decide

/-- P4, row 33: the last DIR.SEND of a line. -/
theorem test_dirSend :
    (after (exec .dirSend { at' (cfgOf 1 2 1 .dir) .lTx .frame with tmp := 0x29, cap := 2, snd := 1 })).map
      (fun t => (t.wire, t.snd, t.ph)) = some ([0x29], 2, .lPost) := by decide
theorem test_dirSend_not_last :
    (after (exec .dirSend { at' dir2 .lTx .frame with tmp := 0x29, cap := 2, snd := 1 })).map
      (fun t => (t.snd, t.ph)) = some (2, .lAct) := by decide
theorem test_lineDir :
    (after (exec .lineDir { at' (cfgOf 0 1 0 .dir) .lPre .frame with schedule := [.padDone, .padDone] })).map
      (fun t => (t.row, t.ph)) = some (1, .idle) := by decide

/-- P4, row 17: an edge in L_TX is lost (R134). -/
theorem test_edge_lost :
    (after (step { at' dir2 .lTx .frame with txbusy := true, schedule := [.edge 0x55] })).map
      (fun t => (t.cap, t.tmp, t.ph)) = some (0, 0, .lTx) := by decide

/-! ## Requests (section 3.7) and reset -/

theorem test_reqFrame :
    (after (exec .reqFrame State.reset)).map (fun t => (t.ph, t.txn, t.fcnt, t.out.ackFrame)) =
      some (.cmd, .frame, 1, true) := by decide
theorem test_reqFrame_held :
    (after (exec .reqFrame (at' buf2 .lAct .frame))).map (fun t => (t.ph, t.fcnt, t.reqFrame, t.out.ackFrame)) =
      some (.lAct, 0, true, false) := by decide
theorem test_frameAccept_wraps :
    (after (exec .frameAccept { State.reset with fcnt := 65535 })).map (fun t => t.fcnt) = some 0 := by decide
theorem test_reqDebug :
    (after (exec (.reqDebug [0x4F, 0x4B]) State.reset)).map (fun t => (t.txn, t.dlen, t.text, t.out.ackDebug)) =
      some (.debug, 2, [0x4F, 0x4B], true) := by decide
theorem test_reqDebug_too_long :
    refusalOf (exec (.reqDebug (List.replicate 255 0x41)) State.reset) = some (.debugTextTooLong 255) := by decide +kernel
theorem test_debugAccept :
    (after (exec (.debugAccept 7) State.reset)).map (fun t => (t.ph, t.txn, t.dlen)) = some (.cmd, .debug, 7) := by
  decide
theorem test_debugEmpty :
    (after (exec .debugEmpty State.reset)).map (fun t => (t.ph, t.out.ackDebug)) = some (.idle, true) := by decide
theorem test_tick_merged :
    (after (exec .tick { at' buf2 .cmd .debug with tpend := true })).map (fun t => (t.tpend, t.ph)) =
      some (true, .cmd) := by decide

/-- Both host requests stay held when the trigger is accepted. -/
theorem test_tickAccept :
    (after (step { State.reset with tpend := true, reqFrame := true, reqDebug := some [0x41] })).map
      (fun t => (t.tpend, t.txn, t.reqFrame, t.reqDebug)) = some (false, .frame, true, some [0x41]) := by decide

/-- FRAME from an idle block of height 0 with a busy link: the command waits. -/
theorem test_frame :
    (after (exec .frame { State.reset with txbusy := true })).map (fun t => (t.ph, t.txn, t.cidx, t.fcnt)) =
      some (.cmd, .frame, 0, 1) := by decide

/-- P7: the reset in the middle of a command. -/
theorem test_reset :
    (after (exec .reset { at' buf2 .cmd .debug with
        cidx := 2, dlen := 1, txbusy := true, tpend := true, wire := [0x00, 0x02], lb := [(0, 0x11)] })).map
      (fun t => (t.ph, t.cidx, t.wire, t.lb)) = some (.idle, 0, [], []) := by decide
theorem test_config_refused :
    refusalOf (step { at' buf2 .cmd .debug with schedule := [.config dir2] }) = some .configChanged := by decide

/-- P7: SEQ holds for the link; the stall is no end of a run. -/
theorem test_channelStall :
    channelStall { at' buf2 .cmd .debug with txbusy := true } = true ∧
      runOver { at' buf2 .cmd .debug with txbusy := true } = false ∧ runOver State.reset = true := by decide

/-- The outputs that show registers: `busy`, `pad_req`, `frame_count`, `tx_data`, `text_addr` (R5). -/
theorem test_outputs :
    busy (at' buf2 .lPre .frame) = true ∧ padReq (at' buf2 .lPre .frame) = true ∧ busy State.reset = false ∧
      frameCount { State.reset with fcnt := 3 } = 3 ∧ txData { State.reset with txd := 0x17 } = 0x17 ∧
      textAddr { at' buf2 .cmd .debug with cidx := 5 } = 2 := by decide

/-! ## Witnesses: the hypotheses of the obligations can be met -/

/-- The invariant does not look at the schedule, the link or the request lines. -/
theorem inv_env {s : State} (h : BlockInv s) (e : List Event) (b : Bool) :
    BlockInv { s with schedule := e, txbusy := b } :=
  ⟨h.1, h.2, h.3, h.4, h.5, h.6, h.7, h.8, h.9, h.10, h.11, h.12, h.13, h.14, h.15, h.16, h.17, h.18⟩

theorem midLine_inv : BlockInv midLine := by
  constructor <;> (try unfold captureOver) <;> decide

/-- The head of an active window, buffered, width 1. -/
def lineHead : State := at' (cfgOf 1 1 0 .buf) .lAct .frame

theorem lineHead_inv : BlockInv lineHead := by
  constructor <;> (try unfold captureOver) <;> decide

/-- The head of a frame-start command. -/
def headerStart : State := at' buf2 .cmd .frame

theorem headerStart_inv : BlockInv headerStart := by
  constructor <;> (try unfold captureOver) <;> decide

/-- The head of the debug command of "A". -/
def debugStart : State := { at' buf2 .cmd .debug with text := [0x41], dlen := 1 }

theorem debugStart_inv : BlockInv debugStart := by
  constructor <;> (try unfold captureOver) <;> decide

/-- The head of a direct active window. -/
def directHead : State := at' (cfgOf 1 1 0 .dir) .lAct .frame

theorem directHead_inv : BlockInv directHead := by
  constructor <;> (try unfold captureOver) <;> decide

theorem reset_inv : BlockInv State.reset := by
  constructor <;> (try unfold captureOver) <;> decide

theorem midLine_wire : WireOk midLine := by
  refine ⟨⟨[], frameCommand midLine.cfg, by decide, .empty, ?_⟩, ?_, by decide⟩
  · exact ⟨[], by decide, by decide, by intro i b h; simp at h⟩
  · intro _ _ _ b h
    have e : memRead midLine.lb midLine.snd.toNat = some 0x08 := by decide
    cases Option.some.inj (e.symm.trans h); decide

theorem witness_DecodeOfEncodeIsIdentity :
    wellFormed (.cmdDebug [0x41]) = true ∧ wellFormed (.debugAccept 1) = true ∧ wellFormed (.reqDebug []) = true ∧
      wellFormed (.cmdNewframe 1023 0 15) = true := by decide
theorem witness_LegalBytesAreTheResults : isHighPattern 0x08 = true ∧ isLowPattern 0xFF = true := by decide
theorem witness_TxSendHandsOver : State.reset.txbusy = false := by decide
theorem witness_TxTryNeverHolds : State.reset.txbusy = false ∧ { State.reset with txbusy := true }.txbusy = true := by
  decide
theorem witness_LinkDoneReleases : State.reset.txbusy = false ∧ { State.reset with txbusy := true }.txbusy = true := by
  decide
theorem witness_HoldsWhileLinkBusy : { headerStart with txbusy := true }.txbusy = true := by decide

/-- A step that hands a byte over, one that does not, and one that releases it. -/
theorem witness_OneByteInFlight :
    headerStart.op = [] ∧ headerStart.schedule.head? ≠ some .reset ∧
      (after (step headerStart)).map (fun t => t.wire) = some [0x00] ∧
      (after (step { headerStart with schedule := [.tick] })).map (fun t => t.wire) = some [] ∧
      (after (step { headerStart with txbusy := true, schedule := [.linkDone] })).map (fun t => t.txbusy) =
        some false := by decide
theorem witness_FrameStartByteStep :
    headerStart.ph = .cmd ∧ headerStart.txn = .frame ∧ headerStart.txbusy = false ∧
      { headerStart with cidx := 5 }.cidx.toNat < 6 ∧
      [0x00, 0x04, 0x11, buf2.width.setWidth 8, buf2.height.setWidth 8, packedByte buf2][5]? = some 0x10 := by decide
theorem witness_FrameStartLastByte :
    headerStart.ph = .cmd ∧ headerStart.txn = .frame ∧ headerStart.txbusy = false ∧
      { headerStart with cidx := 6 }.cidx = 6 ∧ headerStart.cfg.height ≠ 0 ∧
      (at' (cfgOf 3 0 0 .buf) .cmd .frame).cfg.height = 0 ∧ (at' (cfgOf 3 0 0 .buf) .cmd .frame).txbusy = false := by
  decide
/-- The last text byte of a text of one byte. -/
theorem witness_DebugByteStep :
    debugStart.ph = .cmd ∧ debugStart.txn = .debug ∧ debugStart.txbusy = false ∧ 1 ≤ debugStart.dlen.toNat ∧
      debugStart.dlen.toNat ≤ 254 ∧ debugStart.text.length = debugStart.dlen.toNat ∧
      { debugStart with cidx := 3 }.cidx.toNat < debugStart.dlen.toNat + 3 ∧
      (0x00 :: BitVec.ofNat 8 (debugStart.dlen.toNat + 1) :: 0x13 :: debugStart.text)[3]? = some 0x41 := by decide
theorem witness_DebugLastByte :
    debugStart.ph = .cmd ∧ debugStart.txn = .debug ∧ debugStart.txbusy = false ∧ 1 ≤ debugStart.dlen.toNat ∧
      { debugStart with cidx := 4 }.cidx.toNat = debugStart.dlen.toNat + 3 ∧
      { debugStart with dlen := 254, cidx := 257 }.cidx.toNat = (254 : BitVec 16).toNat + 3 := by decide
/-- A command that waits after its first byte. -/
theorem witness_FrameStartEmitsItsEncoding :
    headerStart.ph = .cmd ∧ headerStart.txn = .frame ∧ headerStart.cidx = 0 ∧ headerStart.cks = 0 ∧
      (∀ e ∈ headerStart.schedule, isReset e = false) ∧ (2 : BitVec 10) = headerStart.cfg.width.setWidth 10 ∧
      (1 : BitVec 10) = headerStart.cfg.height.setWidth 10 ∧ (1 : BitVec 4) = headerStart.cfg.pixfmt.setWidth 4 ∧
      (after (exec (.cmdNewframe 2 1 1) headerStart)).map (fun t => (t.ph, t.cidx)) = some (.cmd, 1) := by decide

/-- A command that ends. -/
theorem witness_FrameStartEmitsItsEncoding_ended :
    (after (exec (.cmdNewframe 2 1 1) { headerStart with schedule := commandEvents 7 })).map (fun t => t.ph) =
      some .lPre := by decide
theorem witness_DebugEmitsItsEncoding :
    debugStart.ph = .cmd ∧ debugStart.txn = .debug ∧ debugStart.cidx = 0 ∧ debugStart.cks = 0 ∧
      debugLength debugStart.text.length = true ∧ debugStart.dlen = BitVec.ofNat 16 debugStart.text.length ∧
      (∀ e ∈ debugStart.schedule, isReset e = false) ∧
      (after (exec (.cmdDebug [0x41]) debugStart)).map (fun t => (t.ph, t.cidx)) = some (.cmd, 1) := by decide
theorem witness_DebugEmitsItsEncoding_ended :
    (after (exec (.cmdDebug [0x41]) { debugStart with schedule := commandEvents 5 })).map (fun t => t.ph) =
      some .idle := by decide
theorem witness_CommandsOverPromptLink :
    { headerStart with schedule := commandEvents 7 }.schedule = commandEvents 7 ∧
      { debugStart with schedule := commandEvents 5 }.schedule = commandEvents (debugStart.text.length + 4) ∧
      headerStart.txbusy = false ∧ debugStart.txbusy = false ∧ debugStart.dlen = BitVec.ofNat 16 debugStart.text.length ∧
      debugLength debugStart.text.length = true := by decide
theorem witness_DebugTextBounds :
    255 ≤ (List.replicate 255 (0x41 : Byte)).length ∧ State.reset.ph = .idle ∧ 255 ≤ (255 : BitVec 16).toNat := by
  decide +kernel
theorem witness_CommandNotInterleaved :
    headerStart.op = [] ∧ headerStart.ph = .cmd ∧ headerStart.schedule.head? ≠ some .reset ∧
      (after (step headerStart)).map (fun t => t.wire) = some [0x00] := by decide
theorem witness_LineStartResets :
    { headerStart with cidx := 6 }.cidx = 6 ∧ headerStart.ph = .cmd ∧ headerStart.txbusy = false ∧
      headerStart.txn = .frame ∧ headerStart.row.toNat < headerStart.cfg.height.toNat ∧
      (at' buf2 .lDrain .frame).ph = .lDrain ∧
      { at' buf2 .lDrain .frame with snd := 4 }.snd.toNat = 2 * buf2.width.toNat := by decide
theorem witness_PaddingReturns :
    (at' buf2 .lPre .frame).ph = .lPre ∧ buf2.width ≠ 0 ∧ (at' (cfgOf 0 2 0 .buf) .lPre .frame).cfg.width = 0 ∧
      (at' buf2 .lPost .frame).ph = .lPost := by decide
theorem witness_EdgeCaptureStores :
    lineHead.ph = .lAct ∧ lineHead.cfg.strat = .buf ∧ lineHead.cap.toNat < 2 * lineHead.cfg.width.toNat ∧
      midLine.cap.toNat + 1 = 2 * midLine.cfg.width.toNat := by decide

/-- The drain of a line of width 1, its last byte not formatted. -/
def drainLine : State :=
  { midLine with ph := .lDrain, cap := 2, snd := 1, fmt := false, lb := [(0, 0x08), (1, 0x00)] }

/-- A byte to format: in the active window, and in the drain at the last index. -/
theorem witness_FormatInPlace :
    { midLine with fmt := false }.fmt = false ∧ midLine.snd.toNat < midLine.cap.toNat ∧
      midLine.snd.toNat < 2 * midLine.cfg.width.toNat ∧ memRead midLine.lb midLine.snd.toNat = some 0x08 ∧
      midLine.ph = .lAct ∧ midLine.cfg.strat = .buf := by decide
theorem witness_FormatInPlace_drain :
    drainLine.fmt = false ∧ drainLine.snd.toNat < drainLine.cap.toNat ∧
      drainLine.snd.toNat < 2 * drainLine.cfg.width.toNat ∧ memRead drainLine.lb drainLine.snd.toNat = some 0x00 ∧
      drainLine.ph = .lDrain := by decide
theorem witness_SendFromLineBuffer :
    midLine.fmt = true ∧ midLine.txbusy = false ∧ midLine.snd.toNat < midLine.cap.toNat ∧
      midLine.snd.toNat < 2 * midLine.cfg.width.toNat ∧ memRead midLine.lb midLine.snd.toNat = some 0x08 ∧
      midLine.ph = .lAct ∧ midLine.cfg.strat = .buf ∧ { midLine with ph := .lDrain }.ph = .lDrain := by decide
theorem witness_SkipAndWindowEnd :
    midLine.ph = .lAct ∧ midLine.cfg.strat = .buf ∧ midLine.fmt = true ∧ { midLine with txbusy := true }.txbusy = true ∧
      { midLine with cap := 2 }.cap.toNat = 2 * midLine.cfg.width.toNat ∧
      midLine.cap.toNat ≠ 2 * midLine.cfg.width.toNat := by decide

/-- The end of the last line, and of a line before it. -/
theorem witness_LineEndCountsRow :
    (at' (cfgOf 0 2 0 .buf) .lDrain .frame).ph = .lDrain ∧
      (at' (cfgOf 0 2 0 .buf) .lDrain .frame).snd.toNat = 2 * (cfgOf 0 2 0 .buf).width.toNat ∧
      { at' (cfgOf 0 2 0 .buf) .lDrain .frame with row := 1 }.row + 1 = (cfgOf 0 2 0 .buf).height ∧
      (at' (cfgOf 0 2 0 .buf) .lDrain .frame).row + 1 ≠ (cfgOf 0 2 0 .buf).height := by decide
theorem witness_DirectByte :
    directHead.ph = .lAct ∧ directHead.cfg.strat = .dir ∧ (at' dir2 .lTx .frame).ph = .lTx ∧
      (at' dir2 .lTx .frame).txbusy = false := by decide

/-- The three work units: a format at the head of the line, a send at the end of the window, a skip there. -/
theorem witness_BufferedEdgeStep :
    BlockInv { lineHead with schedule := [.edge 0x12], txbusy := false } ∧ lineHead.fmt = false ∧
      BlockInv { midLine with schedule := [.edge 0x12], txbusy := false } ∧ midLine.fmt = true ∧
      BlockInv { midLine with schedule := [.edge 0x12], txbusy := true } ∧ midLine.ph = .lAct ∧
      midLine.cfg.strat = .buf ∧ lineHead.ph = .lAct ∧ lineHead.cfg.strat = .buf :=
  ⟨inv_env lineHead_inv _ _, rfl, inv_env midLine_inv _ _, rfl, inv_env midLine_inv _ _, rfl, rfl, rfl, rfl⟩
theorem witness_BacklogAtWindowEnd :
    BlockInv { midLine with schedule := [.edge 0x12], txbusy := false } ∧ midLine.ph = .lAct ∧
      midLine.cfg.strat = .buf ∧
      (after (step { midLine with schedule := [.edge 0x12], txbusy := false })).map (fun t => t.ph) = some .lPost :=
  ⟨inv_env midLine_inv _ _, rfl, rfl, by decide⟩

/-- A line of width 1 over a link that is busy in the window; the extra edge in L_POST is lost. -/
theorem witness_BufferedLineOnTheWire :
    lineHead.ph = .lAct ∧ lineHead.txn = .frame ∧ lineHead.cfg.strat = .buf ∧ lineHead.cfg.width ≠ 0 ∧
      (∀ e ∈ [Event.edge 0x00, .linkDone], isReset e = false) ∧ lineHead.cap = 0 ∧ lineHead.snd = 0 ∧
      lineHead.fmt = false ∧ lineHead.hl = .high ∧
      (after (exec .lineBuf { lineHead with
        txbusy := true,
        schedule := [.edge 0x00, .edge 0x08, .edge 0x55, .padDone, .linkDone, .seq, .linkDone] })).map
        (fun t => (t.row, t.wire)) = some (1, formatLine .high [0x00, 0x08]) := by decide
theorem witness_BufferedLineOverPromptLink :
    lineHead.ph = .lAct ∧ lineHead.txn = .frame ∧ lineHead.cfg.strat = .buf ∧ lineHead.cfg.width ≠ 0 ∧
      lineHead.cap = 0 ∧ lineHead.snd = 0 ∧ lineHead.fmt = false ∧ lineHead.hl = .high ∧
      lineHead.txbusy = false ∧ ([0x00, 0x08] : List Byte).length = 2 * lineHead.cfg.width.toNat ∧
      { lineHead with schedule := bufferedWindow lineHead.cfg [0x00, 0x08] }.schedule =
        [.edge 0x00, .linkDone, .edge 0x08, .linkDone, .padDone, .seq, .seq, .linkDone, .seq] := by decide
theorem witness_DirectLineOnTheWire :
    directHead.ph = .lAct ∧ directHead.txn = .frame ∧ directHead.cfg.strat = .dir ∧ directHead.cfg.width ≠ 0 ∧
      directHead.txbusy = false ∧ directHead.cap = 0 ∧ directHead.snd = 0 ∧ directHead.hl = .high ∧
      ([0x00, 0x08] : List Byte).length = 2 * directHead.cfg.width.toNat ∧
      { directHead with schedule := directWindow [0x00, 0x08] }.schedule =
        [.edge 0x00, .seq, .linkDone, .edge 0x08, .seq, .linkDone, .padDone, .seq] := by decide
theorem witness_ReqFrameAcceptsOrWaits :
    State.reset.ph = .idle ∧ State.reset.tpend = false ∧ headerStart.ph ≠ .idle ∧
      { State.reset with tpend := true }.tpend = true := by decide
theorem witness_AcceptSteps :
    State.reset.ph = .idle ∧ 1 ≤ (1 : BitVec 16).toNat ∧ (254 : BitVec 16).toNat ≤ 254 ∧ State.reset.reqDebug = none ∧
      { State.reset with reqDebug := some [] }.reqDebug = some [] := by decide
theorem witness_ReqDebugAcceptsOrWaits :
    ([] : List Byte).length ≤ 254 ∧ (List.replicate 254 (0x41 : Byte)).length ≤ 254 ∧ State.reset.ph = .idle ∧
      State.reset.tpend = false ∧ State.reset.reqFrame = false ∧ headerStart.ph ≠ .idle := by decide +kernel
theorem witness_TickAndItsAcceptance :
    State.reset.ph = .idle ∧ { State.reset with tpend := true }.tpend = true := by decide
theorem witness_ArbiterPriority :
    State.reset.op = [] ∧ State.reset.schedule = [] ∧ State.reset.ph = .idle ∧
      { State.reset with schedule := [.seq] }.schedule = .seq :: [] ∧
      { State.reset with tpend := true }.tpend = true ∧ State.reset.tpend = false ∧
      { State.reset with reqFrame := true }.reqFrame = true ∧
      { State.reset with reqDebug := some [0x41] }.reqDebug = some [0x41] ∧ State.reset.reqDebug = none := by decide
theorem witness_NothingAcceptedWhileBusy :
    headerStart.op = [] ∧ headerStart.ph ≠ .idle ∧ [Event.reqFrame].head? ≠ some .reset ∧
      (after (step { headerStart with schedule := [.reqFrame], tpend := true })).map (fun t => t.reqFrame) =
        some true := by decide

/-- A step that begins a frame, and one that does not. -/
theorem witness_FrameCounterCountsAccepts :
    State.reset.op = [] ∧ headerStart.op = [] ∧ [Event.reqFrame].head? ≠ some .reset ∧
      (after (step { State.reset with schedule := [.reqFrame] })).map (fun t => (t.ph, t.txn, t.fcnt)) =
        some (.cmd, .frame, 1) ∧
      (after (step headerStart)).map (fun t => t.fcnt) = some 0 := by decide

/-- A command byte, then a tick. -/
theorem witness_TickCommutes :
    headerStart.op = [] ∧ headerStart.ph ≠ .idle ∧ isReset .seq = false ∧
      (after (Sys2Proof.core.run 2 { headerStart with schedule := [.seq, .tick] })).isSome = true := by decide

/-- A frame of one line under either strategy, one of height 0, and a line of width 0. -/
theorem witness_FrameEndToEnd :
    State.reset.ph = .idle ∧ State.reset.txbusy = false ∧ dir2.strat = .dir ∧ buf2.strat = .buf ∧
      ([[0x00, 0x08, 0x20, 0xFF]] : List (List Byte)).length = dir2.height.toNat ∧
      (∀ raw ∈ ([[0x00, 0x08, 0x20, 0xFF]] : List (List Byte)), raw.length = 2 * dir2.width.toNat) ∧
      ([] : List (List Byte)).length = (cfgOf 1 0 0 .dir).height.toNat ∧
      bufferedLine (cfgOf 0 1 0 .buf) [] = [.padDone, .padDone, .seq] := by decide
/-- Each composite at hand: in the middle of its sequence with nothing scheduled. -/
theorem witness_CompositesCompleteOrStall :
    BlockInv headerStart ∧ headerStart.ph = .cmd ∧ headerStart.txn = .frame ∧ (2, 1, 1) = frameFields headerStart.cfg ∧
      BlockInv debugStart ∧ debugStart.txn = .debug ∧ BlockInv midLine ∧ inLine midLine = true ∧
      midLine.cfg.strat = .buf ∧ BlockInv directHead ∧ inLine directHead = true ∧ directHead.cfg.strat = .dir ∧
      BlockInv State.reset ∧ State.reset.ph = .idle ∧ (∀ e ∈ [Event.edge 0x12, .seq], isConfig e = false) :=
  ⟨headerStart_inv, rfl, rfl, by decide, debugStart_inv, rfl, midLine_inv, rfl, rfl, directHead_inv, rfl, rfl,
   reset_inv, rfl, by decide⟩

/-- A word that runs, and one that waits for the link. -/
theorem witness_StepRunsTheWord :
    decode { State.reset with op := [0x40] }.op = .ok (.cmdByte, []) ∧ wellFormed .cmdByte = true ∧
      waitsForLink .cmdByte headerStart = false ∧ waitsForLink .cmdByte { headerStart with txbusy := true } = true := by
  decide
theorem witness_EventsRunTheirOperations :
    { State.reset with schedule := [.tick] }.schedule = .tick :: [] ∧ (at' buf2 .lPre .frame).ph = .lPre ∧
      (at' buf2 .lPost .frame).ph = .lPost ∧ lineHead.cfg.strat = .buf ∧ directHead.cfg.strat = .dir ∧
      lineHead.ph = .lAct ∧ directHead.ph = .lAct ∧ State.reset.op = [] := by decide
theorem witness_SequencerRunsItsOperation :
    headerStart.op = [] ∧ headerStart.schedule = [] ∧ headerStart.ph = .cmd ∧ (at' dir2 .lTx .frame).ph = .lTx ∧
      drainInstr (drainUnit (at' buf2 .lDrain .frame)) = some .drainFormat ∧
      drainInstr (drainUnit { midLine with ph := .lDrain, txbusy := true }) = none ∧
      (at' buf2 .lPre .frame).ph = .lPre := by decide

/-- The four grants of an idle block. -/
theorem witness_SequencerRunsItsOperation_idle :
    State.reset.ph = .idle ∧ grant State.reset = .idle ∧ grant { State.reset with tpend := true } = .tick ∧
      grant { State.reset with reqFrame := true } = .frame ∧
      grant { State.reset with reqDebug := some [] } = .debug := by decide
theorem witness_EventsOutsideTheirPhase :
    { headerStart with schedule := [.edge 0x11] }.schedule = [.edge 0x11] ∧ headerStart.ph ≠ .lAct ∧
      { headerStart with schedule := [.padDone] }.schedule = [.padDone] ∧ headerStart.ph ≠ .lPre ∧
      headerStart.ph ≠ .lPost := by decide
theorem witness_NotSelectedChangesNothing :
    State.reset.ph ≠ .cmd ∧ ((3 : BitVec 10), (1 : BitVec 10), (1 : BitVec 4)) ≠ frameFields buf2 ∧
      [0x42] ≠ debugStart.text ∧ ([0x42] : List Byte).length ≤ 254 ∧ State.reset.ph ≠ .lDrain ∧
      State.reset.ph ≠ .lPre ∧ State.reset.ph ≠ .lPost ∧ State.reset.ph ≠ .lAct ∧ directHead.cfg.strat = .dir ∧
      midLine.fmt = true ∧ lineHead.fmt = false ∧ midLine.snd.toNat ≠ 2 * midLine.cfg.width.toNat ∧
      midLine.cfg.strat = .buf ∧ midLine.ph ≠ .lTx ∧ inLine State.reset = false ∧ headerStart.ph ≠ .idle ∧
      State.reset.tpend = false ∧ debugStart.ph ≠ .idle ∧ debugStart.txn ≠ .frame := by decide

/-- The clauses that look at a boundary value. -/
theorem witness_NotSelectedChangesNothing_boundaries :
    headerStart.cidx ≠ 6 ∧ { headerStart with txbusy := true }.txbusy = true ∧
      drainLine.snd.toNat ≠ 2 * drainLine.cfg.width.toNat ∧ debugStart.txn ≠ .frame ∧
      State.reset.cfg.height.toNat ≤ State.reset.row.toNat ∧
      2 * drainLine.cfg.width.toNat ≤ { drainLine with snd := 2 }.snd.toNat ∧
      { State.reset with reqDebug := some [0x41] }.reqDebug = some [0x41] ∧ ([0x41] : List Byte) ≠ [] := by decide
theorem witness_ConfigurationConstant :
    headerStart.op = [] ∧ headerStart.schedule.head? ≠ some .reset ∧
      (after (step headerStart)).map (fun t => t.cfg) = some buf2 ∧
      (after (step { headerStart with schedule := [.reset], cfgIn := dir2 })).map (fun t => t.cfg) = some dir2 := by decide
theorem witness_ConfigurationInputs :
    { headerStart with schedule := [.config dir2] }.schedule = [.config dir2] ∧ headerStart.ph ≠ .idle ∧
      State.reset.ph = .idle := by decide
theorem witness_StepKeepsInvariant :
    BlockInv { midLine with schedule := [.edge 0x12], txbusy := false } ∧
      (after (step { midLine with schedule := [.edge 0x12], txbusy := false })).isSome = true :=
  ⟨inv_env midLine_inv _ _, by decide⟩
theorem witness_InvariantNeverFaults : BlockInv midLine := midLine_inv
theorem witness_StepKeepsWireGrammar :
    BlockInv midLine ∧ WireOk midLine ∧ (after (step midLine)).isSome = true :=
  ⟨midLine_inv, midLine_wire, by decide⟩

end Sys2Proof.Tests
end

section
/-! The frame-start command of a configuration, byte by byte (R62, R63). -/

namespace Sys2Proof.Machine

open Sys2Proof

/-! ## The packed byte -/

/-- The masks and shifts of R63 bit by bit: each bit of the packed byte comes from one field of CFG. -/
theorem packedByte_getLsbD (c : Cfg) {i : Nat} (hi : i < 8) :
    (packedByte c).getLsbD i =
      if i < 2 then c.width.getLsbD (8 + i)
      else if i < 4 then c.height.getLsbD (6 + i)
      else c.pixfmt.getLsbD (i - 4) := by
  interval_cases i <;> simp [packedByte]

/-- The three terms of R63 occupy disjoint bits: pixel format, height, width, from the top. -/
theorem packedByte_eq_append (c : Cfg) :
    packedByte c = c.pixfmt.extractLsb' 0 4 ++ c.height.extractLsb' 8 2 ++ c.width.extractLsb' 8 2 := by
  refine BitVec.eq_of_getLsbD_eq fun i hi => ?_
  rw [packedByte_getLsbD c hi, BitVec.getLsbD_append, BitVec.getLsbD_append]
  split
  case isTrue hwidth => simp [hwidth]
  case isFalse hwidth =>
    by_cases hheight : i < 4
    · have hlow : i - 2 < 2 := by omega
      have hbit : 8 + (i - 2) = 6 + i := by omega
      simp [hheight, hlow, hbit]
    · have hhigh : ¬ i - 2 < 2 := by omega
      have hbit : i - 2 - 2 = i - 4 := by omega
      have htop : i - 4 < 4 := by omega
      simp [hheight, hhigh, hbit, htop]

theorem packedByte_width (c : Cfg) : (packedByte c).extractLsb' 0 2 = c.width.extractLsb' 8 2 := by
  rw [packedByte_eq_append, BitVec.extractLsb'_append_eq_right]

theorem packedByte_height (c : Cfg) : (packedByte c).extractLsb' 2 2 = c.height.extractLsb' 8 2 := by
  rw [packedByte_eq_append, BitVec.extractLsb'_append_eq_of_le (Nat.le_refl 2), BitVec.extractLsb'_append_eq_right]

theorem packedByte_pixfmt (c : Cfg) : (packedByte c).extractLsb' 4 4 = c.pixfmt.extractLsb' 0 4 := by
  rw [packedByte_eq_append, BitVec.extractLsb'_append_eq_of_le (by decide), BitVec.extractLsb'_append_eq_left]

/-! ## The command -/

/-- The encoder's packed byte of the truncated fields is the one the block computes from CFG. -/
theorem packFields_setWidth (c : Cfg) :
    packFields (c.width.setWidth 10) (c.height.setWidth 10) (c.pixfmt.setWidth 4) = packedByte c := by
  have hwidth : (c.width.setWidth 10).extractLsb' 8 2 = c.width.extractLsb' 8 2 :=
    BitVec.extractLsb'_setWidth_of_le (by decide)
  have hheight : (c.height.setWidth 10).extractLsb' 8 2 = c.height.extractLsb' 8 2 :=
    BitVec.extractLsb'_setWidth_of_le (by decide)
  rw [packedByte_eq_append, packFields, hwidth, hheight, BitVec.setWidth_eq_extractLsb' (by decide)]

/-- Cutting a field to its 10 bits leaves its low byte as it is. -/
theorem lowByte_setWidth (x : BitVec 16) : (x.setWidth 10).extractLsb' 0 8 = x.setWidth 8 := by
  rw [BitVec.extractLsb'_setWidth_of_le (by decide), BitVec.setWidth_eq_extractLsb' (by decide)]

theorem frameBody_setWidth (c : Cfg) :
    frameBody (c.width.setWidth 10) (c.height.setWidth 10) (c.pixfmt.setWidth 4) =
      [0x11, c.width.setWidth 8, c.height.setWidth 8, packedByte c] := by
  rw [frameBody, lowByte_setWidth, lowByte_setWidth, packFields_setWidth]

theorem wireCommand_four (code b₁ b₂ b₃ : Byte) :
    wireCommand [code, b₁, b₂, b₃] = [0x00, 0x04, code, b₁, b₂, b₃, code ^^^ b₁ ^^^ b₂ ^^^ b₃] := by
  simp [wireCommand, xorAll]

theorem frameCommand_eq (c : Cfg) :
    frameCommand c =
      [0x00, 0x04, 0x11, c.width.setWidth 8, c.height.setWidth 8, packedByte c,
       0x11 ^^^ c.width.setWidth 8 ^^^ c.height.setWidth 8 ^^^ packedByte c] := by
  rw [frameCommand, frameBody_setWidth, wireCommand_four]

/-- Settles O16: the command by the encoder's word for the truncated fields, the packed byte by its disjoint fields. -/
theorem frameStartCommandBytes : Obligations.FrameStartCommandBytes := fun c =>
  ⟨frameCommand_eq c, packedByte_width c, packedByte_height c, packedByte_pixfmt c⟩

end Sys2Proof.Machine
end

section
/-! The pixel-byte reformatter: the two functions bit by bit, their operations, and the invariants of a formatted byte
(R80, R81, R83, R84). -/

namespace Sys2Proof.Machine

open Sys2Proof

/-! ## The functions bit by bit -/

/-- R80's bit form: bit 3 is the complement of bit 5, the other bits are the operand's. -/
theorem fmtHigh_getLsbD (b : Byte) {i : Nat} (hi : i < 8) :
    (fmtHigh b).getLsbD i = if i = 3 then !b.getLsbD 5 else b.getLsbD i := by
  have mask3 : (0x08 : Byte) = BitVec.twoPow 8 3 := rfl
  rw [fmtHigh, mask3]
  split
  case isTrue bit5 =>
    rw [BitVec.getLsbD_and, BitVec.getLsbD_not, BitVec.getLsbD_twoPow]
    by_cases h3 : i = 3
    · simp [h3, bit5]
    · simp [h3, Ne.symm h3, hi]
  case isFalse bit5 =>
    rw [BitVec.getLsbD_or, BitVec.getLsbD_twoPow]
    by_cases h3 : i = 3
    · simpa [h3] using bit5
    · simp [h3, Ne.symm h3]

/-- R81's bit form: bit 5 is a copy of bit 3, bit 0 is set, the other bits are the operand's. -/
theorem fmtLow_getLsbD (b : Byte) {i : Nat} (hi : i < 8) :
    (fmtLow b).getLsbD i = if i = 5 then b.getLsbD 3 else if i = 0 then true else b.getLsbD i := by
  have mask5 : (0x20 : Byte) = BitVec.twoPow 8 5 := rfl
  have mask0 : (0x01 : Byte) = BitVec.twoPow 8 0 := rfl
  rw [fmtLow, mask5, mask0]
  split
  case isTrue bit3 =>
    rw [BitVec.getLsbD_or, BitVec.getLsbD_or, BitVec.getLsbD_twoPow, BitVec.getLsbD_twoPow]
    by_cases h5 : i = 5
    · simp [h5, bit3]
    · by_cases h0 : i = 0
      · simp [h0]
      · simp [h5, h0, Ne.symm h5, Ne.symm h0]
  case isFalse bit3 =>
    rw [BitVec.getLsbD_or, BitVec.getLsbD_and, BitVec.getLsbD_not, BitVec.getLsbD_twoPow, BitVec.getLsbD_twoPow]
    by_cases h5 : i = 5
    · simpa [h5] using bit3
    · by_cases h0 : i = 0
      · simp [h0]
      · simp [h5, h0, Ne.symm h5, Ne.symm h0, hi]

/-! ## The operations -/

/-- The operation shows the function's value and leaves every register as it is (R82). -/
theorem exec_fmtHigh (b : Byte) (s : State) : exec (.fmtHigh b) s = .next (s.returns (.byte (fmtHigh b))) := rfl

/-- The operation shows the function's value and leaves every register as it is (R82). -/
theorem exec_fmtLow (b : Byte) (s : State) : exec (.fmtLow b) s = .next (s.returns (.byte (fmtLow b))) := rfl

/-- Settles O5: the result is `fmtHigh b`, whose definition is R80's pseudocode. -/
theorem fmtHighResult : Obligations.FmtHighResult := fun b s =>
  ⟨fmtHigh b, rfl, fun _ hi => fmtHigh_getLsbD b hi, exec_fmtHigh b s⟩

/-- Settles O6: the result is `fmtLow b`, whose definition is R81's pseudocode. -/
theorem fmtLowResult : Obligations.FmtLowResult := fun b s =>
  ⟨fmtLow b, rfl, fun _ hi => fmtLow_getLsbD b hi, exec_fmtLow b s⟩

/-! ## The invariants of a formatted byte -/

/-- R83, high: FMT_HIGH writes bit 3 with the complement of the bit 5 it keeps. -/
theorem fmtHigh_bit3 (b : Byte) : (fmtHigh b).getLsbD 3 = !(fmtHigh b).getLsbD 5 := by
  rw [fmtHigh_getLsbD b (by decide), fmtHigh_getLsbD b (by decide)]
  rfl

/-- R83, low: FMT_LOW writes bit 5 with a copy of the bit 3 it keeps. -/
theorem fmtLow_bit5 (b : Byte) : (fmtLow b).getLsbD 5 = (fmtLow b).getLsbD 3 := by
  rw [fmtLow_getLsbD b (by decide), fmtLow_getLsbD b (by decide)]
  rfl

theorem fmtLow_bit0 (b : Byte) : (fmtLow b).getLsbD 0 = true := by
  rw [fmtLow_getLsbD b (by decide)]
  rfl

/-- R84, high: the zero byte has bits 3 and 5 equal, a formatted high byte has not. -/
theorem fmtHigh_ne_zero (b : Byte) : fmtHigh b ≠ 0 := fun zero => by
  have parity := fmtHigh_bit3 b
  simp [zero] at parity

/-- R84, low: bit 0 is set. -/
theorem fmtLow_ne_zero (b : Byte) : fmtLow b ≠ 0 := fun zero => by
  have bit0 := fmtLow_bit0 b
  simp [zero] at bit0

/-- Settles O7: the parity from the bit each function writes, the non-zero invariant from the parity and from bit 0. -/
theorem formattedParityAndNonZero : Obligations.FormattedParityAndNonZero := fun b =>
  ⟨by rw [fmtHigh_bit3, Bool.bne_not_self], beq_of_eq (fmtLow_bit5 b), fmtHigh_ne_zero b, fmtLow_ne_zero b, fmtLow_bit0 b⟩

end Sys2Proof.Machine
end

section
/-! The transmit channel: the poll and the attempt, neither of which holds (R90, R92). -/

namespace Sys2Proof.Machine

open Sys2Proof

/-! ## The poll -/

/-- The model's negated bit in R90's spelling, `TXBUSY = 0`. -/
theorem ready_eq_decide (s : State) : ready s = decide (s.txbusy = false) := by
  rw [ready]
  cases s.txbusy
  case false => rfl
  case true => rfl

/-- The operation shows the poll's value and leaves every register as it is (R90). -/
theorem exec_txReady (s : State) : exec .txReady s = .next (s.returns (.bit (ready s))) := rfl

/-- Settles O9: the poll shows `ready s`, which is R90's test. -/
theorem txReadyPolls : Obligations.TxReadyPolls := fun s => by
  rw [exec_txReady, ready_eq_decide, State.returns]

/-! ## The attempt -/

/-- With the link ready, the attempt is the hand-over, and it shows success (R92). -/
theorem exec_txTry_of_idle (b : Byte) {s : State} (idle : s.txbusy = false) :
    exec (.txTry b) s = .next ((s.handOver b).returns (.bit true)) := by
  have arm : exec (.txTry b) s = execTxTry b s := rfl
  rw [arm, execTxTry, idle, if_neg Bool.false_ne_true]

/-- With a byte in flight, the attempt shows fail and consumes nothing (R92). -/
theorem exec_txTry_of_busy (b : Byte) {s : State} (inFlight : s.txbusy = true) :
    exec (.txTry b) s = .next (s.returns (.bit false)) := by
  have arm : exec (.txTry b) s = execTxTry b s := rfl
  rw [arm, execTxTry, if_pos inFlight]

/-- Settles O11: one clause for each value of TXBUSY. -/
theorem txTryNeverHolds : Obligations.TxTryNeverHolds := fun b _ =>
  ⟨fun idle => exec_txTry_of_idle b idle, fun inFlight => exec_txTry_of_busy b inFlight⟩

end Sys2Proof.Machine
end

section
/-! The buffered line, operation by operation: the padding returns, the capture, the format in place (R117 to R119,
R123, R124), and the events that come outside their phase (R134). -/

namespace Sys2Proof.Machine

open Sys2Proof

/-! ## The padding returns -/

/-- A line with pixels goes on to the active window (R117). -/
theorem exec_padPre_of_pixels {s : State} (pre : s.ph = .lPre) (pixels : s.cfg.width ≠ 0) :
    exec .padPre s = .next (s.setPhase .lAct) := by
  have arm : exec .padPre s = execPadPre s := rfl
  have positive : 0 < s.cfg.width.toNat := BitVec.toNat_pos_of_ne_zero pixels
  rw [arm, execPadPre, if_pos pre, if_pos positive]

/-- A line without pixels has no active window (R117). -/
theorem exec_padPre_of_empty {s : State} (pre : s.ph = .lPre) (empty : s.cfg.width = 0) :
    exec .padPre s = .next (s.setPhase .lPost) := by
  have arm : exec .padPre s = execPadPre s := rfl
  have zero : ¬ 0 < s.cfg.width.toNat := by simp [empty]
  rw [arm, execPadPre, if_pos pre, if_neg zero]

/-- After the window's padding the line drains (R123). -/
theorem exec_padPost_of_lPost {s : State} (post : s.ph = .lPost) : exec .padPost s = .next (s.setPhase .lDrain) := by
  have arm : exec .padPost s = execPadPost s := rfl
  rw [arm, execPadPost, if_pos post]

/-- Settles O27: PAD_PRE with and without pixels, and PAD_POST. -/
theorem paddingReturns : Obligations.PaddingReturns := fun _ =>
  ⟨exec_padPre_of_pixels, exec_padPre_of_empty, exec_padPost_of_lPost⟩

/-! ## The capture -/

/-- In the buffered window an edge whose cursor stands inside LB is captured (R118). -/
theorem exec_edgeCapture_of_inside (r : Byte) {s : State} (window : s.ph = .lAct) (buffered : s.cfg.strat = .buf)
    (inside : s.cap.toNat < lineBytes s.cfg) : exec (.edgeCapture r) s = .next (s.capture r) := by
  have arm : exec (.edgeCapture r) s = execEdgeCapture r s := rfl
  rw [arm, execEdgeCapture, if_pos ⟨window, buffered⟩, if_pos inside]

/-- Settles O28: the next state is `s.capture r`, whose one write to LB is at CAP. -/
theorem edgeCaptureStores : Obligations.EdgeCaptureStores := fun r s window buffered inside =>
  ⟨s.capture r, exec_edgeCapture_of_inside r window buffered inside, rfl,
    memRead_memWrite_self s.lb s.cap.toNat r, fun _ other => memRead_memWrite_ne s.lb r other⟩

/-! ## The format in place -/

/-- R86's selection in the form of a test of HL. -/
theorem fmtBy_eq_ite (hl : HighLow) (b : Byte) : fmtBy hl b = if hl = .high then fmtHigh b else fmtLow b := by
  cases hl
  case high => rfl
  case low => rfl

/-- In the buffered window an unformatted captured byte is formatted (R119). -/
theorem exec_edgeFormat_of_captured {s : State} {b : Byte} (window : s.ph = .lAct) (buffered : s.cfg.strat = .buf)
    (unformatted : s.fmt = false) (inside : s.snd.toNat < lineBytes s.cfg) (captured : s.snd.toNat < s.cap.toNat)
    (stored : memRead s.lb s.snd.toNat = some b) : exec .edgeFormat s = .next (s.formatted (fmtBy s.hl b)) := by
  have arm : exec .edgeFormat s = execEdgeFormat s := rfl
  rw [arm, execEdgeFormat, if_pos ⟨window, buffered, unformatted⟩, readLb_captured _ inside captured stored]

/-- In the drain an unformatted captured byte is formatted (R124). -/
theorem exec_drainFormat_of_captured {s : State} {b : Byte} (drain : s.ph = .lDrain)
    (unformatted : s.fmt = false) (inside : s.snd.toNat < lineBytes s.cfg) (captured : s.snd.toNat < s.cap.toNat)
    (stored : memRead s.lb s.snd.toNat = some b) : exec .drainFormat s = .next (s.formatted (fmtBy s.hl b)) := by
  have arm : exec .drainFormat s = execDrainFormat s := rfl
  rw [arm, execDrainFormat, if_pos ⟨drain, inside, unformatted⟩, readLb_captured _ inside captured stored]

/-- What the window's and the drain's format have in common: the write to LB is at SND, of the byte HL selects. -/
theorem formatted_in_place {o : StepResult} {s : State} {b : Byte} (formats : o = .next (s.formatted (fmtBy s.hl b))) :
    ∃ t, o = .next t ∧ t = { s with lb := t.lb, hl := toggle s.hl, fmt := true } ∧
      memRead t.lb s.snd.toNat = some (if s.hl = .high then fmtHigh b else fmtLow b) ∧
      ∀ j, j ≠ s.snd.toNat → memRead t.lb j = memRead s.lb j := by
  refine ⟨s.formatted (fmtBy s.hl b), formats, rfl, ?_, fun _ other => memRead_memWrite_ne s.lb _ other⟩
  rw [formatted_lb, memRead_memWrite_self, fmtBy_eq_ite]

/-- Settles O29: each operation formats the byte at SND, and so writes in place. -/
theorem formatInPlace : Obligations.FormatInPlace := fun _ _ unformatted captured inside stored =>
  ⟨fun window buffered =>
      formatted_in_place (exec_edgeFormat_of_captured window buffered unformatted inside captured stored),
    fun drain => formatted_in_place (exec_drainFormat_of_captured drain unformatted inside captured stored)⟩

/-! ## Events outside their phase -/

/-- Outside the active window the sensor's byte is lost (R134). -/
theorem edgeStep_of_ne_lAct (r : Byte) {s : State} (outside : s.ph ≠ .lAct) : edgeStep r s = .next s := by
  rw [edgeStep, if_neg outside]

/-- A return of the padding primitive that nothing waits for is ignored (R134). -/
theorem padStep_of_not_padding {s : State} (notPre : s.ph ≠ .lPre) (notPost : s.ph ≠ .lPost) :
    padStep s = .next s := by
  rw [padStep]
  cases phase : s.ph
  case lPre => exact absurd phase notPre
  case lPost => exact absurd phase notPost
  all_goals rfl

/-- With an empty operation port a step of the machine is the step of the next scheduled event. -/
theorem step_of_event {s : State} {e : Event} {rest : List Event} (port : s.op = [])
    (scheduled : s.schedule = e :: rest) : step s = eventStep e (s.taking rest) := by
  rw [step_of_empty_port port, blockStep_cons scheduled]

/-- Settles O52: the event leaves the schedule, and its step changes nothing. -/
theorem eventsOutsideTheirPhase : Obligations.EventsOutsideTheirPhase := by
  intro s rest port
  refine ⟨fun r scheduled outside => ?_, fun scheduled notPre notPost => ?_⟩
  · calc step s
      _ = edgeStep r (s.taking rest) := step_of_event port scheduled
      _ = .next (s.taking rest) := edgeStep_of_ne_lAct r outside
  · calc step s
      _ = padStep (s.taking rest) := step_of_event port scheduled
      _ = .next (s.taking rest) := padStep_of_not_padding notPre notPost

end Sys2Proof.Machine
end

section
/-! The encoding: words from the encoder read back by the decoder, the selectors, the checksum of a command (R61 to R66,
R73 to R75, R109). -/

namespace Sys2Proof.Machine

open Sys2Proof

/-! ## The checksum -/

theorem xorAll_append (l : List Byte) (b : Byte) : xorAll (l ++ [b]) = xorAll l ^^^ b := by
  simp [xorAll]

/-- Settles O4: behind marker and length stands the body with its own checksum, and `x ^^^ x = 0`. -/
theorem commandChecksumRoundTrip : Obligations.CommandChecksumRoundTrip := fun body => by
  have behind : (wireCommand body).drop 2 = body ++ [xorAll body] := rfl
  rw [behind, xorAll_append, BitVec.xor_self]
  rfl

/-! ## The selectors -/

/-- Settles O3: each table is finite, one row for each combination of its bits. -/
theorem selectorTables : Obligations.SelectorTables :=
  ⟨by decide, by decide, by decide⟩

/-! ## The wire commands -/

/-- A command word reads back as the operation of its body, when the length byte can carry the body's length. -/
theorem decode_wireCommand {body : List Byte} {i : Instr} (short : body.length < 256)
    (reads : decodeBody body = .ok i) : decode (wireCommand body) = .ok (i, []) := by
  have nonempty : body.length ≠ 0 := fun empty => by
    rw [List.length_eq_zero_iff.mp empty] at reads
    cases reads
  have length : (BitVec.ofNat 8 body.length).toNat = body.length := Nat.mod_eq_of_lt short
  have positive : BitVec.ofNat 8 body.length ≠ 0#8 := fun zero => nonempty (by simpa [zero] using length.symm)
  simp [decode, wireCommand, positive, decodeCommand, length, reads]

/-- The two parts of a field that R62 and R63 put into different bytes give the field. -/
theorem field_append (x : BitVec 10) : x.extractLsb' 8 2 ++ x.extractLsb' 0 8 = x :=
  BitVec.extractLsb'_append_extractLsb'_eq_extractLsb' (by decide) |>.trans (by simp)

theorem decodeBody_frameBody (w h : BitVec 10) (f : BitVec 4) :
    decodeBody (frameBody w h f) = .ok (.cmdNewframe w h f) := by
  have width : (packFields w h f).extractLsb' 0 2 = w.extractLsb' 8 2 := BitVec.extractLsb'_append_eq_right
  have height : (packFields w h f).extractLsb' 2 2 = h.extractLsb' 8 2 := by
    rw [packFields, BitVec.extractLsb'_append_eq_of_le (Nat.le_refl 2), BitVec.extractLsb'_append_eq_right]
  have pixfmt : (packFields w h f).extractLsb' 4 4 = f := by
    rw [packFields, BitVec.extractLsb'_append_eq_of_le (by decide), BitVec.extractLsb'_append_eq_left]
  simp [frameBody, decodeBody, width, height, pixfmt, field_append]

theorem decodeBody_debugBody {text : List Byte} (nonempty : text ≠ []) :
    decodeBody (debugBody text) = .ok (.cmdDebug text) := by
  cases text with
  | nil => exact absurd rfl nonempty
  | cons t ts => rfl

/-! ## The tagged words -/

theorem tagOf_tagByte (t : Tag) : tagOf (tagByte t) = some t := by
  cases t <;> rfl

/-- A tag byte is neither the marker nor a pixel byte, so the decoder reads what follows it as the tag says. -/
theorem decode_tagByte (t : Tag) (rest : List Byte) : decode (tagByte t :: rest) = decodeTagged t rest := by
  have marker : tagByte t ≠ 0#8 := by cases t <;> decide
  have high : isHighPattern (tagByte t) = false := by cases t <;> rfl
  have low : isLowPattern (tagByte t) = false := by cases t <;> rfl
  simp [decode, marker, high, low, tagOf_tagByte]

/-- The two bytes of a 16-bit length give the length. -/
theorem lengthWord_bytes (n : BitVec 16) : lengthWord (n.extractLsb' 0 8) (n.extractLsb' 8 8) = n :=
  BitVec.extractLsb'_append_extractLsb'_eq_extractLsb' (by decide) |>.trans (by simp)

theorem lengthWord_toNat {n : Nat} (short : n < 256) :
    (lengthWord (BitVec.ofNat 8 n) (BitVec.ofNat 8 (n / 256))).toNat = n := by
  have high : n / 256 = 0 := Nat.div_eq_of_lt short
  rw [high, lengthWord, BitVec.toNat_append]
  simp [Nat.mod_eq_of_lt short]

/-- A text behind its length is read back whole. -/
theorem textWord_of_short {text : List Byte} (short : text.length < 256) :
    textWord (BitVec.ofNat 8 text.length :: BitVec.ofNat 8 (text.length / 256) :: text) =
      .ok (.reqDebug text, []) := by
  simp [textWord, lengthWord_toNat short]

/-- Settles O1: the two commands by their bodies, every other operation by its tag and the vector behind it. -/
theorem decodeOfEncodeIsIdentity : Obligations.DecodeOfEncodeIsIdentity := by
  intro i legal
  cases i with
  | cmdNewframe w h f => exact decode_wireCommand (show 4 < 256 by decide) (decodeBody_frameBody w h f)
  | cmdDebug text =>
    obtain ⟨nonempty, short⟩ := (debugLength_iff text.length).mp legal
    refine decode_wireCommand ?_ (decodeBody_debugBody (List.length_pos_iff.mp nonempty))
    simp only [debugBody, List.length_cons]
    omega
  | reqDebug text =>
    have short : text.length ≤ debugTextMax := of_decide_eq_true legal
    calc decode (encode (.reqDebug text))
      _ = textWord (BitVec.ofNat 8 text.length :: BitVec.ofNat 8 (text.length / 256) :: text) := decode_tagByte .request _
      _ = .ok (.reqDebug text, []) := textWord_of_short (Nat.lt_of_le_of_lt short (by decide))
  | debugAccept n =>
    calc decode (encode (.debugAccept n))
      _ = .ok (.debugAccept (lengthWord (n.extractLsb' 0 8) (n.extractLsb' 8 8)), []) := decode_tagByte .debugAccept _
      _ = .ok (.debugAccept n, []) := by rw [lengthWord_bytes]
  | cksReset => rfl
  | fmtHigh b => exact decode_tagByte .fmtHigh _
  | fmtLow b => exact decode_tagByte .fmtLow _
  | txReady => exact decode_tagByte .txReady _
  | txSend b => exact decode_tagByte .txSend _
  | txTry b => exact decode_tagByte .txTry _
  | linkDone => exact decode_tagByte .linkDone _
  | cksAcc b => exact decode_tagByte .cksAcc _
  | cmdByte => exact decode_tagByte .cmdByte _
  | lineStart => exact decode_tagByte .lineStart _
  | padPre => exact decode_tagByte .padPre _
  | edgeCapture r => exact decode_tagByte .edgeCapture _
  | edgeFormat => exact decode_tagByte .work _
  | edgeSend => exact decode_tagByte .work _
  | edgeSkip => exact decode_tagByte .work _
  | edgeEnd => exact decode_tagByte .edgeEnd _
  | padPost => exact decode_tagByte .padPost _
  | drainFormat => exact decode_tagByte .drain _
  | drainSend => exact decode_tagByte .drain _
  | lineEnd => exact decode_tagByte .drain _
  | lineBuf => exact decode_tagByte .lineBuf _
  | dirRead r => exact decode_tagByte .dirRead _
  | dirSend => exact decode_tagByte .dirSend _
  | lineDir => exact decode_tagByte .lineDir _
  | reqFrame => exact decode_tagByte .request _
  | frameAccept => exact decode_tagByte .frameAccept _
  | debugEmpty => exact decode_tagByte .debugEmpty _
  | tick => exact decode_tagByte .tick _
  | tickAccept => exact decode_tagByte .request _
  | frame => exact decode_tagByte .frame _
  | reset => exact decode_tagByte .reset _

/-- Settles O2: the two commands of section 2 are encodings, the other words are short enough to be read as they stand. -/
theorem specWordsDecode : Obligations.SpecWordsDecode :=
  ⟨decodeOfEncodeIsIdentity (.cmdNewframe 320 240 1) rfl,
    decodeOfEncodeIsIdentity (.cmdDebug [0x46, 0x72, 0x61, 0x6D, 0x65, 0x20, 0x31]) rfl,
    rfl, rfl, rfl, decode_tagByte .work _, decode_tagByte .drain _, decode_tagByte .request _⟩

end Sys2Proof.Machine
end

section
/-! The legal pixel bytes are the formatted ones (R68, R85). -/

namespace Sys2Proof.Machine

open Sys2Proof

theorem isHighPattern_fmtHigh (b : Byte) : isHighPattern (fmtHigh b) = true := by
  rw [isHighPattern, fmtHigh_bit3, Bool.bne_not_self]

theorem isLowPattern_fmtLow (b : Byte) : isLowPattern (fmtLow b) = true := by
  rw [isLowPattern, fmtLow_bit5, fmtLow_bit0, Bool.and_true, beq_self_eq_true]

/-- The one bit that FMT_HIGH writes already has its value in a legal high byte. -/
theorem fmtHigh_of_legal {v : Byte} (legal : isHighPattern v = true) : fmtHigh v = v := by
  have bit3 : (!v.getLsbD 5) = v.getLsbD 3 := (Bool.eq_not.mpr (bne_iff_ne.mp legal).symm).symm
  refine BitVec.eq_of_getLsbD_eq fun i hi => ?_
  rw [fmtHigh_getLsbD v hi]
  split
  case isTrue h3 => rw [h3, bit3]
  case isFalse => rfl

/-- The two bits that FMT_LOW writes already have their values in a legal low byte. -/
theorem fmtLow_of_legal {v : Byte} (legal : isLowPattern v = true) : fmtLow v = v := by
  obtain ⟨bit5, bit0⟩ : v.getLsbD 5 = v.getLsbD 3 ∧ v.getLsbD 0 = true := by
    simpa [isLowPattern] using legal
  refine BitVec.eq_of_getLsbD_eq fun i hi => ?_
  rw [fmtLow_getLsbD v hi]
  split
  case isTrue h5 => rw [h5, bit5]
  case isFalse =>
    split
    case isTrue h0 => rw [h0, bit0]
    case isFalse => rfl

/-- Settles O8: a legal byte is its own formatted byte, and every formatted byte is legal. -/
theorem legalBytesAreTheResults : Obligations.LegalBytesAreTheResults := fun v =>
  ⟨⟨fun legal => ⟨v, fmtHigh_of_legal legal⟩, fun ⟨b, formats⟩ => formats ▸ isHighPattern_fmtHigh b⟩,
    ⟨fun legal => ⟨v, fmtLow_of_legal legal⟩, fun ⟨b, formats⟩ => formats ▸ isLowPattern_fmtLow b⟩,
    fmtHigh_of_legal, fmtLow_of_legal⟩

end Sys2Proof.Machine
end

section
/-! The operations of the channel, the framer and the line, each where its row selects it (R91, R94, R100 to R104, R116,
R120 to R130). -/

namespace Sys2Proof.Machine

open Sys2Proof

/-! ## The channel -/

theorem exec_txSend_of_ready (b : Byte) {s : State} (idle : s.txbusy = false) :
    exec (.txSend b) s = .next (s.handOver b) := by
  have arm : exec (.txSend b) s = execTxSend b s := rfl
  rw [arm, execTxSend, idle, if_neg Bool.false_ne_true]

/-- Settles O10: with the link ready the operation is the hand-over. -/
theorem txSendHandsOver : Obligations.TxSendHandsOver := fun b _ idle => exec_txSend_of_ready b idle

theorem execLinkDone_of_busy {s : State} (inFlight : s.txbusy = true) :
    execLinkDone s = .next { s with txbusy := false } := by
  rw [execLinkDone, if_pos inFlight]

theorem execLinkDone_of_ready {s : State} (idle : s.txbusy = false) : execLinkDone s = .next s := by
  rw [execLinkDone, idle, if_neg Bool.false_ne_true]

/-- Settles O12: one clause for each value of TXBUSY. -/
theorem linkDoneReleases : Obligations.LinkDoneReleases := fun _ =>
  ⟨execLinkDone_of_busy, execLinkDone_of_ready⟩

/-- Settles O13: each of the four asks for `TXBUSY = 0`. -/
theorem holdsWhileLinkBusy : Obligations.HoldsWhileLinkBusy := by
  intro b s inFlight
  have notReady : s.txbusy ≠ false := by simp [inFlight]
  have armSend : exec (.txSend b) s = execTxSend b s := rfl
  have armByte : exec .cmdByte s = execCmdByte s := rfl
  have armDirect : exec .dirSend s = execDirSend s := rfl
  have armDrain : exec .drainSend s = execDrainSend s := rfl
  refine ⟨?_, ?_, ?_, ?_⟩
  · rw [armSend, execTxSend, if_pos inFlight]
  · rw [armByte, execCmdByte, if_neg fun enabled => notReady enabled.2]
  · rw [armDirect, execDirSend, if_neg fun enabled => notReady enabled.2]
  · rw [armDrain, execDrainSend, if_neg fun enabled => notReady enabled.2.2.2]

/-! ## The checksum -/

/-- Settles O15: both operations are one assignment to CKS. -/
theorem checksumPrimitives : Obligations.ChecksumPrimitives := fun _ _ => ⟨rfl, rfl⟩

/-! ## The command bytes -/

/-- With the link ready, CMD.BYTE emits the byte that the command has at CIDX. -/
theorem execCmdByte_of_ready {s : State} {b : Byte} (command : s.ph = .cmd) (idle : s.txbusy = false)
    (byte : commandByte s s.cidx.toNat = .ok b) : execCmdByte s = .next (s.emitByte b) := by
  rw [execCmdByte, if_pos ⟨command, idle⟩, byte]

/-- A byte before the checksum: a body byte is accumulated, and CIDX advances (R102). -/
theorem emitByte_of_before {s : State} (b : Byte) (before : s.cidx.toNat < lastIndex s) :
    s.emitByte b =
      { s with txd := b, txbusy := true, wire := s.wire ++ [b], out := { s.out with txValid := true },
               cks := (if 2 ≤ s.cidx.toNat then s.cks ^^^ b else s.cks), cidx := s.cidx + 1 } := by
  obtain ⟨u, sent, emits⟩ := emitByte_eq s b
  rw [emits, if_neg (Nat.ne_of_lt before), sent]
  simp only [before, and_true]

/-- The checksum byte: it is not accumulated, and the command ends (R102). -/
theorem emitByte_of_last {s : State} (b : Byte) (last : s.cidx.toNat = lastIndex s) :
    s.emitByte b = (s.handOver b).endCommand := by
  obtain ⟨u, sent, emits⟩ := emitByte_eq s b
  rw [emits, if_pos last, sent, if_neg fun inBody => Nat.ne_of_lt inBody.2 last]
  rfl

theorem lastIndex_of_frame {s : State} (frame : s.txn = .frame) : lastIndex s = 6 := by
  rw [lastIndex, frame]

theorem lastIndex_of_debug {s : State} (debug : s.txn = .debug) : lastIndex s = s.dlen.toNat + 3 := by
  rw [lastIndex, debug]

/-- `cmdbyte(FRAME, i)` is R62's command, with CKS in the place of its checksum (R103). -/
theorem commandByte_of_frame {s : State} {i : Nat} {b : Byte} (frame : s.txn = .frame) (before : i < 6)
    (byte : [0x00, 0x04, 0x11, s.cfg.width.setWidth 8, s.cfg.height.setWidth 8, packedByte s.cfg][i]? = some b) :
    commandByte s i = .ok b := by
  rw [commandByte, frame]
  interval_cases i <;> (cases byte; rfl)

theorem commandByte_of_frame_last {s : State} (frame : s.txn = .frame) : commandByte s 6 = .ok s.cks := by
  rw [commandByte, frame]
  rfl

/-- `cmdbyte(DEBUG, i)` is R64's command before its checksum (R103). -/
theorem commandByte_of_debug {s : State} {i : Nat} {b : Byte} (debug : s.txn = .debug)
    (legal : debugLength s.dlen.toNat = true) (before : i < s.dlen.toNat + 3)
    (byte : (0x00 :: BitVec.ofNat 8 (s.dlen.toNat + 1) :: 0x13 :: s.text)[i]? = some b) :
    commandByte s i = .ok b := by
  rw [commandByte, debug]
  simp only [debugByte, legal, if_true]
  match i with
  | 0 => cases byte; rfl
  | 1 => cases byte; rfl
  | 2 => cases byte; rfl
  | k + 3 =>
    have inText : s.text[k]? = some b := byte
    have inside : k < s.dlen.toNat := by omega
    simp [inside, textByte, inText]

theorem commandByte_of_debug_last {s : State} (debug : s.txn = .debug) (legal : debugLength s.dlen.toNat = true) :
    commandByte s (s.dlen.toNat + 3) = .ok s.cks := by
  rw [commandByte, debug]
  simp [debugByte, legal]

/-- Settles O17: the byte is R103's, and CIDX stands before the checksum. -/
theorem frameStartByteStep : Obligations.FrameStartByteStep := by
  intro s b command frame idle before byte
  have reads := execCmdByte_of_ready command idle (commandByte_of_frame frame before byte)
  have armed : exec .cmdByte s = execCmdByte s := rfl
  rw [armed, reads, emitByte_of_before b (by rwa [lastIndex_of_frame frame])]

/-- CMD.BYTE at the checksum of a frame-start command hands it over and ends the header (R102, R150). -/
theorem execCmdByte_of_frame_last {s : State} (command : s.ph = .cmd) (frame : s.txn = .frame)
    (idle : s.txbusy = false) (last : s.cidx.toNat = 6) :
    execCmdByte s = .next (s.handOver s.cks).endHeader := by
  have byte : commandByte s s.cidx.toNat = .ok s.cks := by rw [last, commandByte_of_frame_last frame]
  have ends : (s.handOver s.cks).endCommand = (s.handOver s.cks).endHeader := by
    rw [State.endCommand, handOver_txn, frame]
  rw [execCmdByte_of_ready command idle byte, emitByte_of_last _ (by rw [last, lastIndex_of_frame frame]), ends]

/-- Settles O18: the header ends in its first line, or in IDLE for a frame of height 0. -/
theorem frameStartLastByte : Obligations.FrameStartLastByte := by
  intro s command frame idle last
  have ends := execCmdByte_of_frame_last command frame idle (by rw [last]; rfl)
  have armed : exec .cmdByte s = execCmdByte s := rfl
  refine ⟨fun lines => ?_, fun empty => ?_⟩
  · rw [armed, ends, endHeader_lines (s := s.handOver s.cks) lines]
    rfl
  · rw [armed, ends, endHeader_empty (s := s.handOver s.cks) empty]
    rfl

/-- Settles O19: the byte is R103's, and CIDX stands before the checksum. -/
theorem debugByteStep : Obligations.DebugByteStep := by
  intro s b command debug idle nonempty short _ before byte
  have legal := (debugLength_iff s.dlen.toNat).mpr ⟨nonempty, short⟩
  have reads := execCmdByte_of_ready command idle (commandByte_of_debug debug legal before byte)
  have armed : exec .cmdByte s = execCmdByte s := rfl
  rw [armed, reads, emitByte_of_before b (by rwa [lastIndex_of_debug debug])]

/-- CMD.BYTE at the checksum of a debug-text command hands it over and ends the transaction (R102, R152). -/
theorem execCmdByte_of_debug_last {s : State} (command : s.ph = .cmd) (debug : s.txn = .debug)
    (idle : s.txbusy = false) (legal : debugLength s.dlen.toNat = true) (last : s.cidx.toNat = s.dlen.toNat + 3) :
    execCmdByte s = .next (s.handOver s.cks).endDebug := by
  have byte : commandByte s s.cidx.toNat = .ok s.cks := by rw [last, commandByte_of_debug_last debug legal]
  have ends : (s.handOver s.cks).endCommand = (s.handOver s.cks).endDebug := by
    rw [State.endCommand, handOver_txn, debug]
  rw [execCmdByte_of_ready command idle byte, emitByte_of_last _ (by rw [last, lastIndex_of_debug debug]), ends]

/-- Settles O20: the checksum stands at `DLEN + 3`. -/
theorem debugLastByte : Obligations.DebugLastByte := fun s command debug idle nonempty short last =>
  execCmdByte_of_debug_last command debug idle ((debugLength_iff s.dlen.toNat).mpr ⟨nonempty, short⟩) last

/-- Settles O24: an empty text is no step, one of 255 bytes or more is above `debugTextMax`. -/
theorem debugTextBounds : Obligations.DebugTextBounds := by
  intro text s
  have armDebug : exec (.cmdDebug text) s = execCmdDebug text s := rfl
  have armReq : exec (.reqDebug text) s = execReqDebug text s := rfl
  refine ⟨fun empty => ?_, fun long => ?_, fun long idle => ?_, fun n long idle => ?_⟩
  · rw [armDebug, execCmdDebug, if_pos (by rw [empty]; rfl)]
  · rw [armDebug, execCmdDebug, if_neg (by omega), if_pos (show debugTextMax < text.length from long)]
  · rw [armReq, execReqDebug, if_pos ⟨idle, long⟩]
  · have armAccept : exec (.debugAccept n) s = execDebugAccept n s := rfl
    rw [armAccept, execDebugAccept, if_pos idle, if_pos (show debugTextMax < n.toNat from long)]

/-! ## The line -/

theorem lineMayStart_of_cmd {s : State} (command : s.ph = .cmd) :
    lineMayStart s = (ready s && decide (s.cidx.toNat = lastIndex s)) := by
  rw [lineMayStart, command]

theorem lineMayStart_of_lDrain {s : State} (drain : s.ph = .lDrain) :
    lineMayStart s = decide (s.snd.toNat = lineBytes s.cfg) := by
  rw [lineMayStart, drain]

theorem execLineStart_of_end {s : State} (mayStart : lineMayStart s = true) (frame : s.txn = .frame)
    (rows : s.row.toNat < s.cfg.height.toNat) : execLineStart s = .next s.startLine := by
  rw [execLineStart, if_pos ⟨mayStart, frame, rows⟩]

/-- Settles O26: a line may start at both ends. -/
theorem lineStartResets : Obligations.LineStartResets := by
  intro s place frame rows
  refine execLineStart_of_end ?_ frame rows
  rcases place with ⟨command, last, idle⟩ | ⟨drain, sent⟩
  · rw [lineMayStart_of_cmd command, lastIndex_of_frame frame, last]
    simp [ready, idle]
  · rw [lineMayStart_of_lDrain drain]
    exact decide_eq_true sent

/-- In the buffered window a formatted byte goes out when the link is ready (R120). -/
theorem execEdgeSend_of_captured {s : State} {b : Byte} (window : s.ph = .lAct) (buffered : s.cfg.strat = .buf)
    (formatted : s.fmt = true) (idle : s.txbusy = false) (inside : s.snd.toNat < lineBytes s.cfg)
    (captured : s.snd.toNat < s.cap.toNat) (stored : memRead s.lb s.snd.toNat = some b) :
    execEdgeSend s = .next (s.sendNext b) := by
  rw [execEdgeSend, if_pos ⟨window, buffered, formatted, idle⟩, readLb_captured _ inside captured stored]

/-- In the drain a formatted byte goes out when the link is ready (R125). -/
theorem execDrainSend_of_captured {s : State} {b : Byte} (drain : s.ph = .lDrain)
    (formatted : s.fmt = true) (idle : s.txbusy = false) (inside : s.snd.toNat < lineBytes s.cfg)
    (captured : s.snd.toNat < s.cap.toNat) (stored : memRead s.lb s.snd.toNat = some b) :
    execDrainSend s = .next (s.sendNext b) := by
  rw [execDrainSend, if_pos ⟨drain, inside, formatted, idle⟩, readLb_captured _ inside captured stored]

/-- Settles O30: the two sends differ in their place only. -/
theorem sendFromLineBuffer : Obligations.SendFromLineBuffer := fun _ _ formatted idle captured inside stored =>
  ⟨fun window buffered => execEdgeSend_of_captured window buffered formatted idle inside captured stored,
    fun drain => execDrainSend_of_captured drain formatted idle inside captured stored⟩

/-- The end of the window of a line whose last byte is captured (R122). -/
theorem execEdgeEnd_of_full {s : State} (window : s.ph = .lAct) (buffered : s.cfg.strat = .buf)
    (full : s.cap.toNat = lineBytes s.cfg) : execEdgeEnd s = .next (s.setPhase .lPost) := by
  rw [execEdgeEnd, if_pos ⟨window, buffered, full⟩]

theorem execEdgeEnd_of_open {s : State} (notFull : s.cap.toNat ≠ lineBytes s.cfg) : execEdgeEnd s = .next s := by
  rw [execEdgeEnd, if_neg fun ends => notFull ends.2.2]

/-- Settles O31: the skip is no change, the window ends at `CAP = 2W` and only there. -/
theorem skipAndWindowEnd : Obligations.SkipAndWindowEnd := fun _ window buffered =>
  ⟨fun _ _ => rfl, execEdgeEnd_of_full window buffered, execEdgeEnd_of_open⟩

theorem execLineEnd_of_sent {s : State} (drain : s.ph = .lDrain) (sent : s.snd.toNat = lineBytes s.cfg) :
    execLineEnd s = .next s.endLine := by
  rw [execLineEnd, if_pos ⟨drain, sent⟩]

/-- Settles O32: the test of the new ROW decides between the end of the frame and the next line. -/
theorem lineEndCountsRow : Obligations.LineEndCountsRow := by
  intro s drain sent
  have ends := execLineEnd_of_sent drain sent
  have armed : exec .lineEnd s = execLineEnd s := rfl
  refine ⟨fun last => ?_, fun other => ?_⟩
  · rw [armed, ends, endLine_last last]
    rfl
  · rw [armed, ends, endLine_next other]
    rfl

theorem execDirRead_of_window (r : Byte) {s : State} (window : s.ph = .lAct) (direct : s.cfg.strat = .dir) :
    execDirRead r s = .next { s with tmp := fmtBy s.hl r, hl := toggle s.hl, cap := s.cap + 1, ph := .lTx } := by
  rw [execDirRead, if_pos ⟨window, direct⟩]

theorem execDirSend_of_ready {s : State} (sending : s.ph = .lTx) (idle : s.txbusy = false) :
    execDirSend s = .next (s.handOver s.tmp).sentDirect := by
  rw [execDirSend, if_pos ⟨sending, idle⟩]

/-- Settles O33: the read formats by HL, the send hands TMP over. -/
theorem directByte_holds : Obligations.DirectByte := by
  intro r s
  have armRead : exec (.dirRead r) s = execDirRead r s := rfl
  refine ⟨fun window direct => ?_, fun sending idle => execDirSend_of_ready sending idle⟩
  rw [armRead, execDirRead_of_window r window direct, fmtBy_eq_ite]

end Sys2Proof.Machine
end

section
/-! Requests, accepts, the trigger and reset (R34, R141 to R148, R180). -/

namespace Sys2Proof.Machine

open Sys2Proof

/-! ## Requests -/

theorem execReqFrame_of_idle {s : State} (idle : s.ph = .idle) (noTrigger : s.tpend = false) :
    execReqFrame s = .next s.acceptHostFrame := by
  rw [execReqFrame, if_pos ⟨idle, noTrigger⟩]

theorem execReqFrame_of_gated {s : State} (gated : s.ph ≠ .idle ∨ s.tpend = true) :
    execReqFrame s = .next s.presentFrame := by
  refine if_neg fun ⟨idle, noTrigger⟩ => ?_
  rcases gated with busy | trigger
  · exact busy idle
  · simp [trigger] at noTrigger

/-- Settles O39: the gate of REQ.FRAME is open or closed. -/
theorem reqFrameAcceptsOrWaits : Obligations.ReqFrameAcceptsOrWaits := fun _ =>
  ⟨execReqFrame_of_idle, execReqFrame_of_gated⟩

/-- The gate of REQ.DEBUG is open: an empty text is acknowledged, another one accepted (R143 to R145). -/
theorem execReqDebug_of_idle {s : State} {text : List Byte} (short : text.length ≤ 254) (idle : s.ph = .idle)
    (noTrigger : s.tpend = false) (noFrame : s.reqFrame = false) :
    execReqDebug text s = if text.length = 0 then .next s.ackDebug else .next (s.acceptHostDebug text) := by
  rw [execReqDebug, if_neg fun long => Nat.not_lt.mpr short long.2, if_pos ⟨idle, noTrigger, noFrame⟩]

theorem execReqDebug_of_gated {s : State} {text : List Byte} (short : s.ph = .idle → text.length ≤ 254)
    (gated : s.ph ≠ .idle ∨ s.tpend = true ∨ s.reqFrame = true) :
    execReqDebug text s = .next (s.presentDebug text) := by
  rw [execReqDebug, if_neg fun long => Nat.not_lt.mpr (short long.1) long.2, if_neg]
  rintro ⟨idle, noTrigger, noFrame⟩
  rcases gated with busy | trigger | frame
  · exact busy idle
  · simp [trigger] at noTrigger
  · simp [frame] at noFrame

/-- Settles O41: the gate of REQ.DEBUG is open or closed; behind the open one the text is empty or not. -/
theorem reqDebugAcceptsOrWaits : Obligations.ReqDebugAcceptsOrWaits := by
  intro text s short
  have arm : exec (.reqDebug text) s = execReqDebug text s := rfl
  refine ⟨fun idle noTrigger noFrame nonempty => ?_, fun idle noTrigger noFrame empty => ?_,
    execReqDebug_of_gated fun _ => short⟩
  · rw [arm, execReqDebug_of_idle short idle noTrigger noFrame, if_neg (by simpa using nonempty)]
    rfl
  · rw [arm, execReqDebug_of_idle short idle noTrigger noFrame, if_pos (by rw [empty]; rfl)]
    rfl

/-! ## Accepts -/

/-- Settles O40: each of the three at an idle block. -/
theorem acceptSteps : Obligations.AcceptSteps := by
  intro n s idle
  refine ⟨if_pos idle, fun positive short => ?_, fun line => if_pos ⟨idle, ?_⟩⟩
  · have arm : exec (.debugAccept n) s = execDebugAccept n s := rfl
    rw [arm, execDebugAccept, if_pos idle, if_neg (Nat.not_lt.mpr (show n.toNat ≤ debugTextMax from short)),
      if_neg (Nat.ne_of_gt positive)]
    rfl
  · rcases line with low | emptyText
    · rw [low]; rfl
    · rw [emptyText]; rfl

theorem execTickAccept_of_pending {s : State} (idle : s.ph = .idle) (pending : s.tpend = true) :
    execTickAccept s = .next s.acceptTrigger := by
  rw [execTickAccept, if_pos ⟨idle, pending⟩]

/-- Settles O42: TICK is one assignment, TICK.ACCEPT the trigger's accept. -/
theorem tickAndItsAcceptance : Obligations.TickAndItsAcceptance := fun _ =>
  ⟨rfl, execTickAccept_of_pending⟩

/-! ## Reset -/

/-- Settles O56: the next state is `s.resetBlock`, which writes every register. -/
theorem resetFromAnyState : Obligations.ResetFromAnyState := fun s =>
  ⟨s.resetBlock, rfl, rfl, fun _ => rfl⟩

end Sys2Proof.Machine
end

section
/-! Steps of the machine as the step table gives them (R156), and what is no step at all (R6, U9). -/

namespace Sys2Proof.Machine

open Sys2Proof

/-! ## The word at the port -/

/-- The port's word, read to the operation that it decodes to. -/
theorem fetchOp_of_decode {s : State} {i : Instr} {rest : List Byte} (word : decode s.op = .ok (i, rest)) :
    fetchOp s = some (.ok i) := by
  cases port : s.op with
  | nil => rw [port] at word; cases word
  | cons b bytes =>
    rw [port] at word
    simp only [fetchOp, port, word]

/-- Settles O49: the word is fetched, and the hold for the link decides. -/
theorem stepRunsTheWord : Obligations.StepRunsTheWord := by
  intro s i rest word _
  have fetched := fetchOp_of_decode word
  refine ⟨fun runs => ?_, fun waits => ?_⟩
  · simp only [step, fetched, runs]
    rfl
  · simp only [step, fetched, waits, if_true]

/-! ## Events -/

/-- The work unit of R74's selector is the operation of that name. -/
theorem workStep_eq (s : State) : workStep s = exec (workInstr (workUnit s)) s := by
  rw [workStep]
  cases workUnit s
  case format => rfl
  case send => rfl
  case skip => rfl

theorem edgeStep_of_direct {r : Byte} {s : State} (window : s.ph = .lAct) (direct : s.cfg.strat = .dir) :
    edgeStep r s = execDirRead r s := by
  rw [edgeStep, if_pos window, direct]

theorem edgeStep_of_buffered {r : Byte} {s : State} (window : s.ph = .lAct) (buffered : s.cfg.strat = .buf) :
    edgeStep r s = andThen (andThen (execEdgeCapture r s) workStep) execEdgeEnd := by
  rw [edgeStep, if_pos window, buffered]

theorem padStep_of_lPre {s : State} (pre : s.ph = .lPre) : padStep s = execPadPre s := by
  rw [padStep, pre]

theorem padStep_of_lPost {s : State} (post : s.ph = .lPost) : padStep s = execPadPost s := by
  rw [padStep, post]

/-- Settles O50: the event at the head of the schedule is taken, and each is the operation of its row. -/
theorem eventsRunTheirOperations : Obligations.EventsRunTheirOperations := by
  intro s e rest port scheduled
  have taken := step_of_event port scheduled
  refine ⟨?linkDone, ?tick, ?reset, ?reqFrame, ?reqDebug, ?padPre, ?padPost, ?direct, ?buffered⟩
  case linkDone => rintro rfl; exact taken
  case tick => rintro rfl; exact taken
  case reset => rintro rfl; exact taken
  case reqFrame => rintro rfl; exact taken
  case reqDebug => rintro text rfl; exact taken
  case padPre => rintro rfl pre; exact taken.trans (padStep_of_lPre (s := s.taking rest) pre)
  case padPost => rintro rfl post; exact taken.trans (padStep_of_lPost (s := s.taking rest) post)
  case direct => rintro r rfl window direct; exact taken.trans (edgeStep_of_direct (s := s.taking rest) window direct)
  case buffered =>
    rintro r rfl window buffered
    rw [← funext workStep_eq]
    exact taken.trans (edgeStep_of_buffered (s := s.taking rest) window buffered)

/-! ## The sequencer -/

/-- A step of SEQ, scheduled or with nothing scheduled, is its step on the state it begins with. -/
theorem step_of_seq {s u : State} (port : s.op = [])
    (moves : (s.schedule = [] ∧ u = s.quiet) ∨ ∃ rest, s.schedule = .seq :: rest ∧ u = s.taking rest) :
    step s = seqStep u := by
  rcases moves with ⟨nothing, rfl⟩ | ⟨rest, scheduled, rfl⟩
  · rw [step_of_empty_port port, blockStep_nil nothing]
  · exact step_of_event port scheduled

theorem seqStep_of_idle {s : State} (idle : s.ph = .idle) : seqStep s = arbiterStep s := by
  rw [seqStep, idle]

theorem seqStep_of_cmd {s : State} (command : s.ph = .cmd) : seqStep s = execCmdByte s := by
  rw [seqStep, command]

theorem seqStep_of_lTx {s : State} (sending : s.ph = .lTx) : seqStep s = execDirSend s := by
  rw [seqStep, sending]

theorem seqStep_of_lDrain {s : State} (drain : s.ph = .lDrain) : seqStep s = drainStep s := by
  rw [seqStep, drain]

/-- SEQ waits for the sensor (R156). -/
theorem seqStep_of_sensor {s : State} (waits : s.ph = .lPre ∨ s.ph = .lAct ∨ s.ph = .lPost) :
    seqStep s = .next s := by
  rcases waits with phase | phase | phase <;> rw [seqStep, phase]

theorem arbiterStep_of_tick {s : State} (granted : grant s = .tick) : arbiterStep s = execTickAccept s := by
  rw [arbiterStep, granted]

theorem arbiterStep_of_frame {s : State} (granted : grant s = .frame) : arbiterStep s = execReqFrame s := by
  rw [arbiterStep, granted]

theorem arbiterStep_of_debug {s : State} {text : List Byte} (granted : grant s = .debug)
    (held : s.reqDebug = some text) : arbiterStep s = execReqDebug text s := by
  simp only [arbiterStep, granted, held]

theorem arbiterStep_of_none {s : State} (granted : grant s = .idle) : arbiterStep s = .next s := by
  rw [arbiterStep, granted]

/-- The step of L_DRAIN is the operation that R75's selector names; the hold is none. -/
theorem drainStep_eq (s : State) :
    drainStep s = (drainInstr (drainUnit s)).elim (.next s) (fun i => exec i s) := by
  rw [drainStep]
  cases drainUnit s
  case lineEnd => rfl
  case format => rfl
  case send => rfl
  case hold => rfl

theorem drainStep_of_some {s : State} {i : Instr} (selected : drainInstr (drainUnit s) = some i) :
    drainStep s = exec i s := by
  rw [drainStep_eq, selected, Option.elim_some]

theorem drainStep_of_none {s : State} (selected : drainInstr (drainUnit s) = none) : drainStep s = .next s := by
  rw [drainStep_eq, selected, Option.elim_none]

/-- Settles O51: SEQ's step on `u`, which has the registers of `s`, is the row of its phase. -/
theorem sequencerRunsItsOperation : Obligations.SequencerRunsItsOperation := by
  intro s u port moves
  have seq := step_of_seq port moves
  obtain ⟨phase, granted, held, drain⟩ :
      u.ph = s.ph ∧ grant u = grant s ∧ u.reqDebug = s.reqDebug ∧ drainUnit u = drainUnit s := by
    rcases moves with ⟨_, rfl⟩ | ⟨rest, _, rfl⟩ <;> exact ⟨rfl, rfl, rfl, rfl⟩
  rw [seq, ← phase, ← granted, ← held, ← drain]
  refine ⟨?tick, ?frame, ?debug, ?none, seqStep_of_cmd, seqStep_of_lTx, ?drain, ?hold, seqStep_of_sensor⟩
  case tick => exact fun idle grants => (seqStep_of_idle idle).trans (arbiterStep_of_tick grants)
  case frame => exact fun idle grants => (seqStep_of_idle idle).trans (arbiterStep_of_frame grants)
  case debug => exact fun _ idle grants text => (seqStep_of_idle idle).trans (arbiterStep_of_debug grants text)
  case none => exact fun idle grants => (seqStep_of_idle idle).trans (arbiterStep_of_none grants)
  case drain => exact fun _ inDrain selected => (seqStep_of_lDrain inDrain).trans (drainStep_of_some selected)
  case hold => exact fun inDrain selected => (seqStep_of_lDrain inDrain).trans (drainStep_of_none selected)

/-- Settles O43: the priority of the grant, then SEQ's step. -/
theorem arbiterPriority : Obligations.ArbiterPriority := by
  intro s u port idle moves
  obtain ⟨tick, frame, debug, none, -⟩ := sequencerRunsItsOperation s u port moves
  refine ⟨fun pending => tick idle ?_, fun noTrigger held => frame idle ?_,
    fun text noTrigger noFrame held => debug text idle ?_ held, fun noTrigger noFrame noDebug => none idle ?_⟩
  · simp [grant_eq, pending]
  · simp [grant_eq, noTrigger, held]
  · simp [grant_eq, noTrigger, noFrame, held]
  · simp [grant_eq, noTrigger, noFrame, noDebug]

/-! ## What is no step -/

/-- Settles O55: the change is refused in a transaction, and else written to the inputs. -/
theorem configurationInputs : Obligations.ConfigurationInputs := by
  intro s c rest port scheduled
  have taken := step_of_event port scheduled
  exact ⟨fun busy => taken.trans (if_neg busy), fun idle => taken.trans (if_pos idle)⟩

theorem ne_buf_of_dir {s : State} (direct : s.cfg.strat = .dir) : s.cfg.strat ≠ .buf := by
  rw [direct]; decide

theorem ne_dir_of_buf {s : State} (buffered : s.cfg.strat = .buf) : s.cfg.strat ≠ .dir := by
  rw [buffered]; decide

/-- LINE_START outside the two places where a line may start (log 20). -/
theorem execLineStart_of_not {s : State} (closed : lineMayStart s = false) : execLineStart s = .next s :=
  if_neg fun ⟨mayStart, _⟩ => by simp [closed] at mayStart

theorem lineMayStart_of_other {s : State} (notCommand : s.ph ≠ .cmd) (notDrain : s.ph ≠ .lDrain) :
    lineMayStart s = false := by
  rw [lineMayStart]
  cases phase : s.ph
  case cmd => exact absurd phase notCommand
  case lDrain => exact absurd phase notDrain
  all_goals rfl

/-- The four parts of a buffered edge outside the buffered window (R118 to R120, R122). -/
theorem edgeParts_of_not_window {s : State} (r : Byte) (outside : s.ph ≠ .lAct ∨ s.cfg.strat = .dir) :
    exec (.edgeCapture r) s = .next s ∧ exec .edgeFormat s = .next s ∧
      exec .edgeSend s = .next s ∧ exec .edgeEnd s = .next s := by
  have closed : ¬ (s.ph = .lAct ∧ s.cfg.strat = .buf) := fun ⟨window, buffered⟩ =>
    outside.elim (fun other => other window) (fun direct => ne_buf_of_dir direct buffered)
  exact ⟨if_neg closed, if_neg fun ⟨window, buffered, _⟩ => closed ⟨window, buffered⟩,
    if_neg fun ⟨window, buffered, _⟩ => closed ⟨window, buffered⟩,
    if_neg fun ⟨window, buffered, _⟩ => closed ⟨window, buffered⟩⟩

/-- A line composite outside a line of the frame or under the other strategy (R127, R130). -/
theorem not_runningLine {s : State} (outside : inLine s = false ∨ s.txn ≠ .frame) : ¬ runningLine s.row s = true := by
  rcases outside with noLine | noFrame
  · simp [runningLine, noLine]
  · simp [runningLine, noFrame]

/-- CMD_NEWFRAME outside its command, or with fields that are not CFG's. -/
theorem exec_cmdNewframe_of_not {s : State} {w h : BitVec 10} {f : BitVec 4}
    (outside : s.ph ≠ .cmd ∨ s.txn ≠ .frame ∨ (w, h, f) ≠ frameFields s.cfg) : exec (.cmdNewframe w h f) s = .next s := by
  refine if_neg fun ⟨emits, fields⟩ => ?_
  obtain ⟨command, frame⟩ := of_decide_eq_true emits
  rcases outside with other | other | other
  · exact other command
  · exact other frame
  · exact other fields

/-- CMD_DEBUG outside its command, or with a text that is not the one accepted. -/
theorem exec_cmdDebug_of_not {s : State} {text : List Byte} (outside : s.ph ≠ .cmd ∨ s.txn ≠ .debug ∨ text ≠ s.text)
    (short : text.length ≤ 254) : exec (.cmdDebug text) s = .next s := by
  have arm : exec (.cmdDebug text) s = execCmdDebug text s := rfl
  have notLong : ¬ debugTextMax < text.length := Nat.not_lt.mpr short
  have closed : ¬ (emitting .debug s = true ∧ text = s.text) := by
    rintro ⟨emits, own⟩
    obtain ⟨command, debug⟩ := of_decide_eq_true emits
    rcases outside with other | other | other
    · exact other command
    · exact other debug
    · exact other own
  rw [arm, execCmdDebug, if_neg notLong, if_neg closed, ite_self]

/-- LINE_START in a command that has a byte to send, or one in flight. -/
theorem execLineStart_of_unfinished_command {s : State} (command : s.ph = .cmd)
    (unfinished : s.cidx ≠ 6 ∨ s.txbusy = true) : execLineStart s = .next s := by
  by_cases frame : s.txn = .frame
  · refine execLineStart_of_not ?_
    rw [lineMayStart_of_cmd command, lastIndex_of_frame frame]
    rcases unfinished with early | inFlight
    · have before : s.cidx.toNat ≠ 6 := fun last => early (BitVec.eq_of_toNat_eq last)
      simp [before]
    · simp [ready, inFlight]
  · exact if_neg fun ⟨_, isFrame, _⟩ => frame isFrame

theorem formatParts_of_formatted {s : State} (formatted : s.fmt = true) :
    exec .edgeFormat s = .next s ∧ exec .drainFormat s = .next s := by
  have closed : ¬ s.fmt = false := by simp [formatted]
  exact ⟨if_neg fun ⟨_, _, unformatted⟩ => closed unformatted, if_neg fun ⟨_, _, unformatted⟩ => closed unformatted⟩

theorem sendParts_of_not_sendable {s : State} (notSendable : s.fmt = false ∨ s.txbusy = true) :
    exec .edgeSend s = .next s ∧ exec .drainSend s = .next s := by
  have closed : ¬ (s.fmt = true ∧ s.txbusy = false) := fun ⟨formatted, free⟩ => by
    simp [formatted, free] at notSendable
  exact ⟨if_neg fun ⟨_, _, sendable⟩ => closed sendable, if_neg fun ⟨_, _, sendable⟩ => closed sendable⟩

/-- The two parts of the drain with nothing to drain. -/
theorem drainParts_of_drained {s : State} (drained : s.ph ≠ .lDrain ∨ lineBytes s.cfg ≤ s.snd.toNat) :
    exec .drainFormat s = .next s ∧ exec .drainSend s = .next s := by
  have closed : ¬ (s.ph = .lDrain ∧ s.snd.toNat < lineBytes s.cfg) := fun ⟨drain, more⟩ =>
    drained.elim (fun other => other drain) (fun sent => Nat.not_lt.mpr sent more)
  exact ⟨if_neg fun ⟨drain, more, _⟩ => closed ⟨drain, more⟩, if_neg fun ⟨drain, more, _⟩ => closed ⟨drain, more⟩⟩

theorem exec_lineBuf_of_not {s : State} (outside : inLine s = false ∨ s.txn ≠ .frame ∨ s.cfg.strat = .dir) :
    exec .lineBuf s = .next s := by
  refine if_neg fun ⟨running, buffered⟩ => ?_
  rcases outside with noLine | noFrame | direct
  · exact not_runningLine (.inl noLine) running
  · exact not_runningLine (.inr noFrame) running
  · exact ne_buf_of_dir direct buffered

theorem exec_lineDir_of_not {s : State} (outside : inLine s = false ∨ s.txn ≠ .frame ∨ s.cfg.strat = .buf) :
    exec .lineDir s = .next s := by
  refine if_neg fun ⟨running, direct⟩ => ?_
  rcases outside with noLine | noFrame | buffered
  · exact not_runningLine (.inl noLine) running
  · exact not_runningLine (.inr noFrame) running
  · exact ne_dir_of_buf buffered direct

theorem exec_debugAccept_of_not {s : State} {n : BitVec 16} (outside : s.ph ≠ .idle ∨ n = 0) :
    exec (.debugAccept n) s = .next s := by
  have arm : exec (.debugAccept n) s = execDebugAccept n s := rfl
  rcases outside with other | zero
  · exact if_neg other
  · rw [arm, execDebugAccept, zero]
    exact ite_self _

theorem exec_debugEmpty_of_not {s : State} {text : List Byte}
    (outside : s.ph ≠ .idle ∨ (s.reqDebug = some text ∧ text ≠ [])) : exec .debugEmpty s = .next s := by
  refine if_neg fun ⟨idle, emptyText⟩ => ?_
  rcases outside with other | ⟨held, nonempty⟩
  · exact other idle
  · rw [held] at emptyText
    exact nonempty emptyText

/-- Settles O53: each clause denies a conjunct of the guard of its operation. -/
theorem notSelectedChangesNothing : Obligations.NotSelectedChangesNothing := by
  intro s r n w h f text
  refine ⟨?cmdByte, exec_cmdNewframe_of_not, exec_cmdDebug_of_not, ?lineStart, execLineStart_of_unfinished_command,
    ?lineStartDrain, ?lineStartFrame, fun other => if_neg other, fun other => if_neg other,
    edgeParts_of_not_window r, rfl, formatParts_of_formatted, sendParts_of_not_sendable, drainParts_of_drained,
    ?lineEnd, ?dirRead, ?dirSend, exec_lineBuf_of_not, exec_lineDir_of_not, fun other => if_neg other,
    exec_debugAccept_of_not, exec_debugEmpty_of_not, ?tickAccept, ?frame⟩
  case cmdByte => exact fun other => if_neg fun ⟨command, _⟩ => other command
  case lineStart =>
    exact fun notCommand notDrain => execLineStart_of_not (lineMayStart_of_other notCommand notDrain)
  case lineStartDrain =>
    intro drain notSent
    refine execLineStart_of_not ?_
    rw [lineMayStart_of_lDrain drain]
    exact decide_eq_false notSent
  case lineStartFrame =>
    refine fun outside => if_neg fun ⟨_, frame, rows⟩ => ?_
    exact outside.elim (fun other => other frame) (fun past => Nat.not_lt.mpr past rows)
  case lineEnd =>
    exact fun outside => if_neg fun ⟨drain, sent⟩ => outside.elim (fun other => other drain) (fun left => left sent)
  case dirRead =>
    exact fun outside => if_neg fun ⟨window, direct⟩ =>
      outside.elim (fun other => other window) (fun buffered => ne_dir_of_buf buffered direct)
  case dirSend => exact fun other => if_neg fun ⟨sending, _⟩ => other sending
  case tickAccept =>
    refine fun outside => if_neg fun ⟨idle, pending⟩ => ?_
    rcases outside with other | noTrigger
    · exact other idle
    · simp [noTrigger] at pending
  case frame =>
    intro busy noFrame
    have arm : exec .frame s = execFrame s := rfl
    rw [arm, execFrame, if_neg busy, if_neg noFrame]

end Sys2Proof.Machine
end

section
/-! What a step of the agents can do, said once (R156): a step that answers a next state took an event, and moved in one
of the ways of `Moves`. -/

namespace Sys2Proof.Machine

open Sys2Proof

/-! ## The moves -/

/-- The end of a buffered edge: the window is left when the line is captured (R122). -/
def State.endEdge (s : State) : State := if s.cap.toNat = lineBytes s.cfg then s.setPhase .lPost else s

/-- A move of the environment: it reads no phase but IDLE and writes neither the sequencer nor the line. -/
inductive EnvMoves : Event → State → State → Prop where
  | still {e : Event} (u : State) (noReset : e ≠ .reset) (lost : ∀ r, e = .edge r → u.ph ≠ .lAct) : EnvMoves e u u
  | release {u : State} (inFlight : u.txbusy = true) : EnvMoves .linkDone u { u with txbusy := false }
  | tick (u : State) : EnvMoves .tick u { u with tpend := true }
  | config (c : Cfg) (u : State) : EnvMoves (.config c) u { u with cfgIn := c }
  | presentFrame (u : State) : EnvMoves .reqFrame u u.presentFrame
  | presentDebug (text : List Byte) (u : State) : EnvMoves (.reqDebug text) u (u.presentDebug text)
  | ackDebug {e : Event} {u : State} (request : e = .seq ∨ e = .reqDebug []) (idle : u.ph = .idle) :
      EnvMoves e u u.ackDebug

/-- The arbiter of an idle block accepts a request or the trigger. -/
inductive Accepts (u : State) : State → Prop where
  | frame (noTrigger : u.tpend = false) : Accepts u u.acceptHostFrame
  | debug (text : List Byte) (legal : debugLength text.length = true) : Accepts u (u.acceptHostDebug text)
  | trigger (pending : u.tpend = true) : Accepts u u.acceptTrigger

/-- The work unit of a buffered edge, on the state after the capture (R74, R119 to R121). -/
inductive Works (u : State) : State → Prop where
  | format (b : Byte) (unformatted : u.fmt = false) (stored : memRead u.lb u.snd.toNat = some b) :
      Works u (u.formatted (fmtBy u.hl b))
  | send (b : Byte) (formatted : u.fmt = true) (ready : u.txbusy = false)
      (stored : memRead u.lb u.snd.toNat = some b) : Works u (u.sendNext b)
  | skip (formatted : u.fmt = true) (inFlight : u.txbusy = true) : Works u u

/-- A move inside a line, one constructor for each step of 43_line_pipeline.md. -/
inductive LineMoves : Event → State → State → Prop where
  | padPre {u : State} (pre : u.ph = .lPre) :
      LineMoves .padDone u (u.setPhase (if 0 < u.cfg.width.toNat then .lAct else .lPost))
  | padPost {u : State} (post : u.ph = .lPost) : LineMoves .padDone u (u.setPhase .lDrain)
  | edge (r : Byte) {u m : State} (window : u.ph = .lAct) (buffered : u.cfg.strat = .buf)
      (inside : u.cap.toNat < lineBytes u.cfg) (work : Works (u.capture r) m) : LineMoves (.edge r) u m.endEdge
  | read (r : Byte) {u : State} (window : u.ph = .lAct) (direct : u.cfg.strat = .dir) :
      LineMoves (.edge r) u { u with tmp := fmtBy u.hl r, hl := toggle u.hl, cap := u.cap + 1, ph := .lTx }
  | sendDirect {u : State} (sending : u.ph = .lTx) (ready : u.txbusy = false) :
      LineMoves .seq u (u.handOver u.tmp).sentDirect
  | format (b : Byte) {u : State} (drain : u.ph = .lDrain) (more : u.snd.toNat < lineBytes u.cfg)
      (unformatted : u.fmt = false) (stored : memRead u.lb u.snd.toNat = some b) :
      LineMoves .seq u (u.formatted (fmtBy u.hl b))
  | send (b : Byte) {u : State} (drain : u.ph = .lDrain) (more : u.snd.toNat < lineBytes u.cfg)
      (formatted : u.fmt = true) (ready : u.txbusy = false) (stored : memRead u.lb u.snd.toNat = some b) :
      LineMoves .seq u (u.sendNext b)
  | endLine {u : State} (drain : u.ph = .lDrain) (sent : u.snd.toNat = lineBytes u.cfg) : LineMoves .seq u u.endLine

/-- What an event can do to the state in which it is taken. -/
inductive Moves : Event → State → State → Prop where
  | env {e : Event} {u t : State} (moves : EnvMoves e u t) : Moves e u t
  | accept {e : Event} {u t : State} (noReset : e ≠ .reset) (idle : u.ph = .idle) (accepts : Accepts u t) : Moves e u t
  | byte (b : Byte) {u : State} (command : u.ph = .cmd) (ready : u.txbusy = false)
      (byte : commandByte u u.cidx.toNat = .ok b) : Moves .seq u (u.emitByte b)
  | line {e : Event} {u t : State} (moves : LineMoves e u t) : Moves e u t
  | reset (u : State) : Moves .reset u u.resetBlock

theorem Moves.still_of_no_edge {e : Event} (u : State) (noReset : e ≠ .reset) (noEdge : ∀ r, e ≠ .edge r) : Moves e u u :=
  .env (.still u noReset fun r edge => absurd edge (noEdge r))

theorem Moves.still_seq (u : State) : Moves .seq u u :=
  .still_of_no_edge u (by decide) fun _ => by simp

/-! ## The requests -/

theorem execReqFrame_cases (s : State) :
    (s.ph = .idle ∧ s.tpend = false ∧ execReqFrame s = .next s.acceptHostFrame) ∨
      execReqFrame s = .next s.presentFrame := by
  rw [execReqFrame]
  split
  case isTrue idle => exact .inl ⟨idle.1, idle.2, rfl⟩
  case isFalse => exact .inr rfl

/-- REQ.DEBUG is refused, acknowledged, accepted, or held by the host (R143 to R145, R108). -/
theorem execReqDebug_cases (text : List Byte) (s : State) :
    (s.ph = .idle ∧ execReqDebug text s = .refused (.debugTextTooLong text.length)) ∨
    (s.ph = .idle ∧ text = [] ∧ execReqDebug text s = .next s.ackDebug) ∨
    (s.ph = .idle ∧ debugLength text.length = true ∧ execReqDebug text s = .next (s.acceptHostDebug text)) ∨
    ((s.ph = .idle → s.tpend = true ∨ s.reqFrame = true) ∧ execReqDebug text s = .next (s.presentDebug text)) := by
  rw [execReqDebug]
  split
  case isTrue long => exact .inl ⟨long.1, rfl⟩
  case isFalse short =>
    split
    case isTrue opened =>
      have idle := opened.1
      split
      case isTrue empty => exact .inr (.inl ⟨idle, List.length_eq_zero_iff.mp empty, rfl⟩)
      case isFalse nonempty =>
        have bound : text.length ≤ 254 := Nat.not_lt.mp fun long => short ⟨idle, long⟩
        exact .inr (.inr (.inl ⟨idle, (debugLength_iff _).mpr ⟨Nat.pos_of_ne_zero nonempty, bound⟩, rfl⟩))
    case isFalse closed =>
      refine .inr (.inr (.inr ⟨fun idle => ?_, rfl⟩))
      by_contra opened
      obtain ⟨noTrigger, noFrame⟩ := not_or.mp opened
      exact closed ⟨idle, Bool.eq_false_of_not_eq_true noTrigger, Bool.eq_false_of_not_eq_true noFrame⟩

theorem reqFrame_moves {u t : State} (next : execReqFrame u = .next t) : Moves .reqFrame u t := by
  rcases execReqFrame_cases u with ⟨idle, noTrigger, accepts⟩ | presents
  · cases next.symm.trans accepts
    exact .accept (by decide) idle (.frame noTrigger)
  · cases next.symm.trans presents
    exact .env (.presentFrame u)

theorem reqDebug_moves {text : List Byte} {u t : State} (next : execReqDebug text u = .next t) :
    Moves (.reqDebug text) u t := by
  rcases execReqDebug_cases text u with ⟨_, refuses⟩ | ⟨idle, empty, acks⟩ | ⟨idle, legal, accepts⟩ | ⟨_, presents⟩
  · cases next.symm.trans refuses
  · cases next.symm.trans acks
    exact .env (.ackDebug (.inr (by rw [empty])) idle)
  · cases next.symm.trans accepts
    exact .accept (by simp) idle (.debug text legal)
  · cases next.symm.trans presents
    exact .env (.presentDebug text u)

/-! ## The sequencer -/

theorem arbiter_moves {u t : State} (idle : u.ph = .idle) (next : arbiterStep u = .next t) : Moves .seq u t := by
  cases granted : grant u with
  | tick =>
    rw [arbiterStep_of_tick granted, execTickAccept] at next
    split at next
    case isTrue pending =>
      cases next
      exact .accept (by decide) idle (.trigger pending.2)
    case isFalse =>
      cases next
      exact .still_seq u
  | frame =>
    have noTrigger : u.tpend = false := Bool.eq_false_of_not_eq_true fun pending => by
      simp [grant_eq, pending] at granted
    rw [arbiterStep_of_frame granted, execReqFrame_of_idle idle noTrigger] at next
    cases next
    exact .accept (by decide) idle (.frame noTrigger)
  | debug =>
    obtain ⟨noTrigger, noFrame, text, held⟩ :
        u.tpend = false ∧ u.reqFrame = false ∧ ∃ text, u.reqDebug = some text := by
      rw [grant_eq] at granted
      split at granted
      case isTrue => cases granted
      case isFalse noTrigger =>
        split at granted
        case isTrue => cases granted
        case isFalse noFrame =>
          split at granted
          case isTrue held =>
            exact ⟨Bool.eq_false_of_not_eq_true noTrigger, Bool.eq_false_of_not_eq_true noFrame,
              Option.isSome_iff_exists.mp held⟩
          case isFalse => cases granted
    rw [arbiterStep_of_debug granted held] at next
    rcases execReqDebug_cases text u with ⟨_, refuses⟩ | ⟨_, _, acks⟩ | ⟨_, legal, accepts⟩ | ⟨gated, _⟩
    · cases next.symm.trans refuses
    · cases next.symm.trans acks
      exact .env (.ackDebug (.inl rfl) idle)
    · cases next.symm.trans accepts
      exact .accept (by decide) idle (.debug text legal)
    · simp [noTrigger, noFrame] at gated
      exact absurd idle gated
  | idle =>
    rw [arbiterStep_of_none granted] at next
    cases next
    exact .still_seq u

theorem cmdByte_moves {u t : State} (next : execCmdByte u = .next t) : Moves .seq u t := by
  rw [execCmdByte] at next
  split at next
  case isTrue enabled =>
    split at next
    case h_1 b byte =>
      cases next
      exact .byte b enabled.1 enabled.2 byte
    case h_2 => cases next
  case isFalse =>
    cases next
    exact .still_seq u

theorem dirSend_moves {u t : State} (next : execDirSend u = .next t) : Moves .seq u t := by
  rw [execDirSend] at next
  split at next
  case isTrue enabled =>
    cases next
    exact .line (.sendDirect enabled.1 enabled.2)
  case isFalse =>
    cases next
    exact .still_seq u

theorem lineEnd_moves {u t : State} (next : execLineEnd u = .next t) : Moves .seq u t := by
  rw [execLineEnd] at next
  split at next
  case isTrue enabled =>
    cases next
    exact .line (.endLine enabled.1 enabled.2)
  case isFalse =>
    cases next
    exact .still_seq u

theorem drainFormat_moves {u t : State} (next : execDrainFormat u = .next t) : Moves .seq u t := by
  rw [execDrainFormat] at next
  split at next
  case isTrue enabled =>
    obtain ⟨drain, more, unformatted⟩ := enabled
    obtain ⟨b, _, _, stored, formats⟩ := readLb_next next
    cases formats
    exact .line (.format b drain more unformatted stored)
  case isFalse =>
    cases next
    exact .still_seq u

theorem drainSend_moves {u t : State} (next : execDrainSend u = .next t) : Moves .seq u t := by
  rw [execDrainSend] at next
  split at next
  case isTrue enabled =>
    obtain ⟨drain, more, formatted, ready⟩ := enabled
    obtain ⟨b, _, _, stored, sends⟩ := readLb_next next
    cases sends
    exact .line (.send b drain more formatted ready stored)
  case isFalse =>
    cases next
    exact .still_seq u

theorem drain_moves {u t : State} (next : drainStep u = .next t) : Moves .seq u t := by
  rw [drainStep] at next
  split at next
  case h_1 => exact lineEnd_moves next
  case h_2 => exact drainFormat_moves next
  case h_3 => exact drainSend_moves next
  case h_4 =>
    cases next
    exact .still_seq u

theorem seq_moves {u t : State} (next : seqStep u = .next t) : Moves .seq u t := by
  cases phase : u.ph with
  | idle => exact arbiter_moves phase (seqStep_of_idle phase ▸ next)
  | cmd => exact cmdByte_moves (seqStep_of_cmd phase ▸ next)
  | lTx => exact dirSend_moves (seqStep_of_lTx phase ▸ next)
  | lDrain => exact drain_moves (seqStep_of_lDrain phase ▸ next)
  | lPre => cases (seqStep_of_sensor (.inl phase)).symm.trans next; exact .still_seq u
  | lAct => cases (seqStep_of_sensor (.inr (.inl phase))).symm.trans next; exact .still_seq u
  | lPost => cases (seqStep_of_sensor (.inr (.inr phase))).symm.trans next; exact .still_seq u

/-! ## The sensor -/

/-- The work unit that R74 selects in the buffered window. -/
theorem work_of_next {u m : State} (window : u.ph = .lAct) (buffered : u.cfg.strat = .buf)
    (next : workStep u = .next m) : Works u m := by
  cases formatted : u.fmt with
  | false =>
    have unit : workUnit u = .format := by simp [workUnit_eq, formatted]
    rw [workStep, unit] at next
    simp only [execEdgeFormat, window, buffered, formatted, and_self, if_true] at next
    obtain ⟨b, _, _, stored, formats⟩ := readLb_next next
    cases formats
    exact .format b formatted stored
  | true =>
    cases busy : u.txbusy with
    | false =>
      have unit : workUnit u = .send := by simp [workUnit_eq, formatted, ready, busy]
      rw [workStep, unit] at next
      simp only [execEdgeSend, window, buffered, formatted, busy, and_self, if_true] at next
      obtain ⟨b, _, _, stored, sends⟩ := readLb_next next
      cases sends
      exact .send b formatted busy stored
    | true =>
      have unit : workUnit u = .skip := by simp [workUnit_eq, formatted, ready, busy]
      rw [workStep, unit] at next
      cases next
      exact .skip formatted busy

/-- A work unit keeps the phase, the capture cursor and the configuration. -/
theorem Works.keeps {u m : State} (work : Works u m) : m.ph = u.ph ∧ m.cap = u.cap ∧ m.cfg = u.cfg := by
  cases work with
  | format b => exact ⟨rfl, rfl, rfl⟩
  | send b => exact ⟨rfl, rfl, rfl⟩
  | skip => exact ⟨rfl, rfl, rfl⟩

/-- EDGE.END in the buffered window is the end of the edge. -/
theorem execEdgeEnd_eq {m : State} (window : m.ph = .lAct) (buffered : m.cfg.strat = .buf) :
    execEdgeEnd m = .next m.endEdge := by
  rw [State.endEdge]
  split
  case isTrue full => exact execEdgeEnd_of_full window buffered full
  case isFalse left => exact execEdgeEnd_of_open left

theorem edge_moves {r : Byte} {u t : State} (next : edgeStep r u = .next t) : Moves (.edge r) u t := by
  by_cases window : u.ph = .lAct
  case neg =>
    cases (edgeStep_of_ne_lAct r window).symm.trans next
    exact .env (.still u (by simp) fun _ _ => window)
  case pos =>
    cases strat : u.cfg.strat with
    | buf =>
      rw [edgeStep_of_buffered window strat] at next
      obtain ⟨m, works, ends⟩ := andThen_next next
      obtain ⟨c, captures, works⟩ := andThen_next works
      simp only [execEdgeCapture, window, strat, and_self, if_true] at captures
      split at captures
      case isTrue inside =>
        cases captures
        have work := work_of_next (u := u.capture r) window strat works
        obtain ⟨phase, _, cfg⟩ := work.keeps
        rw [execEdgeEnd_eq (phase.trans window) (by rw [cfg]; exact strat)] at ends
        cases ends
        exact .line (.edge r window strat inside work)
      case isFalse => cases captures
    | dir =>
      rw [edgeStep_of_direct window strat, execDirRead_of_window r window strat] at next
      cases next
      exact .line (.read r window strat)

theorem pad_moves {u t : State} (next : padStep u = .next t) : Moves .padDone u t := by
  by_cases pre : u.ph = .lPre
  · rw [padStep_of_lPre pre, execPadPre, if_pos pre] at next
    cases next
    exact .line (.padPre pre)
  · by_cases post : u.ph = .lPost
    · rw [padStep_of_lPost post, execPadPost, if_pos post] at next
      cases next
      exact .line (.padPost post)
    · cases (padStep_of_not_padding pre post).symm.trans next
      exact .still_of_no_edge u (by decide) fun _ => by simp

/-! ## Events and steps -/

/-- An event that answers a next state made one of the moves. -/
theorem eventStep_moves {e : Event} {u t : State} (next : eventStep e u = .next t) : Moves e u t := by
  cases e with
  | seq => exact seq_moves next
  | edge r => exact edge_moves next
  | padDone => exact pad_moves next
  | linkDone =>
    cases busy : u.txbusy with
    | true =>
      cases (execLinkDone_of_busy busy).symm.trans next
      exact .env (.release busy)
    | false =>
      cases (execLinkDone_of_ready busy).symm.trans next
      exact .still_of_no_edge u (by decide) fun _ => by simp
  | reqFrame => exact reqFrame_moves next
  | reqDebug text => exact reqDebug_moves next
  | tick =>
    cases next
    exact .env (.tick u)
  | reset =>
    cases next
    exact .reset u
  | config c =>
    simp only [eventStep, configStep] at next
    split at next
    case isTrue =>
      cases next
      exact .env (.config c u)
    case isFalse => cases next

/-- The event that the next step takes and the events after it: the head of the schedule, or SEQ where it is empty. -/
def Takes (s : State) (e : Event) (rest : List Event) : Prop :=
  s.schedule = e :: rest ∨ (s.schedule = [] ∧ e = .seq ∧ rest = [])

theorem blockStep_of_takes {s : State} {e : Event} {rest : List Event} (takes : Takes s e rest) :
    blockStep s = eventStep e (s.taking rest) := by
  rcases takes with scheduled | ⟨nothing, rfl, rfl⟩
  · exact blockStep_cons scheduled
  · rw [blockStep_nil nothing, State.quiet, State.taking, ← nothing]
    rfl

theorem exists_takes (s : State) : ∃ e rest, Takes s e rest := by
  cases scheduled : s.schedule with
  | nil => exact ⟨.seq, [], .inr ⟨scheduled, rfl, rfl⟩⟩
  | cons e rest => exact ⟨e, rest, .inl scheduled⟩

/-- A step of the block that answers a next state took an event and made one of its moves. -/
theorem blockStep_moves {s t : State} (next : blockStep s = .next t) :
    ∃ e rest, Takes s e rest ∧ Moves e (s.taking rest) t := by
  obtain ⟨e, rest, takes⟩ := exists_takes s
  exact ⟨e, rest, takes, eventStep_moves ((blockStep_of_takes takes).symm.trans next)⟩

/-- A step of the machine with an empty port is such a step. -/
theorem step_moves {s t : State} (port : s.op = []) (next : step s = .next t) :
    ∃ e rest, Takes s e rest ∧ Moves e (s.taking rest) t :=
  blockStep_moves ((step_of_empty_port port).symm.trans next)

theorem Takes.not_reset {s : State} {e : Event} {rest : List Event} (takes : Takes s e rest)
    (noReset : noResetNext s) : e ≠ .reset := by
  rcases takes with scheduled | ⟨_, rfl, _⟩
  · rintro rfl
    exact noReset (by rw [scheduled]; rfl)
  · decide

end Sys2Proof.Machine
end

section
/-! What the moves leave alone, and what follows for one step of the agents: the byte in flight, the command, the
transaction, the frame counter, the configuration (R4, R95 to R97, R110, R140, R154). -/

namespace Sys2Proof.Machine

open Sys2Proof

/-! ## The registers that each kind of move writes -/

theorem endHeader_frame (s : State) :
    s.endHeader = { s with ph := s.endHeader.ph, txn := s.endHeader.txn, row := s.endHeader.row, cap := s.endHeader.cap,
                           snd := s.endHeader.snd, fmt := s.endHeader.fmt, hl := s.endHeader.hl,
                           out := { s.out with done := s.endHeader.out.done } } := by
  rw [State.endHeader]
  split
  case isTrue => rfl
  case isFalse => rfl

theorem endCommand_frame (s : State) :
    s.endCommand = { s with ph := s.endCommand.ph, txn := s.endCommand.txn, row := s.endCommand.row,
                            cap := s.endCommand.cap, snd := s.endCommand.snd, fmt := s.endCommand.fmt,
                            hl := s.endCommand.hl, out := { s.out with done := s.endCommand.out.done } } := by
  rw [State.endCommand]
  split
  case h_1 => rfl
  case h_2 => exact endHeader_frame s
  case h_3 => rfl

theorem endLine_frame (s : State) :
    s.endLine = { s with ph := s.endLine.ph, txn := s.endLine.txn, row := s.endLine.row, cap := s.endLine.cap,
                         snd := s.endLine.snd, fmt := s.endLine.fmt, hl := s.endLine.hl,
                         out := { s.out with done := s.endLine.out.done } } := by
  rw [State.endLine]
  split
  case isTrue => rfl
  case isFalse => rfl

theorem emitByte_frame (s : State) (b : Byte) :
    s.emitByte b =
      { s with ph := (s.emitByte b).ph, txn := (s.emitByte b).txn, cidx := (s.emitByte b).cidx,
               cks := (s.emitByte b).cks, row := (s.emitByte b).row, cap := (s.emitByte b).cap,
               snd := (s.emitByte b).snd, fmt := (s.emitByte b).fmt, hl := (s.emitByte b).hl,
               txd := b, txbusy := true, wire := s.wire ++ [b],
               out := { s.out with txValid := true, done := (s.emitByte b).out.done } } := by
  obtain ⟨u, rfl, emits⟩ := emitByte_eq s b
  rw [emits]
  split
  case isTrue =>
    rw [endCommand_frame]
  case isFalse => rfl

theorem endEdge_frame (s : State) : s.endEdge = { s with ph := s.endEdge.ph } := by
  rw [State.endEdge]
  split
  case isTrue => rfl
  case isFalse => rfl

theorem EnvMoves.frame {e : Event} {u t : State} (moves : EnvMoves e u t) :
    t = { u with txbusy := t.txbusy, tpend := t.tpend, cfgIn := t.cfgIn, reqFrame := t.reqFrame,
                 reqDebug := t.reqDebug, out := t.out } := by
  cases moves <;> rfl

theorem Works.frame {u m : State} (work : Works u m) :
    m = { u with lb := m.lb, snd := m.snd, fmt := m.fmt, hl := m.hl, txd := m.txd, txbusy := m.txbusy, wire := m.wire,
                 out := { u.out with txValid := m.out.txValid } } := by
  cases work <;> rfl

theorem LineMoves.frame {e : Event} {u t : State} (moves : LineMoves e u t) :
    t = { u with ph := t.ph, txn := t.txn, row := t.row, cap := t.cap, snd := t.snd, fmt := t.fmt, hl := t.hl,
                 tmp := t.tmp, txd := t.txd, txbusy := t.txbusy, wire := t.wire, lb := t.lb,
                 out := { u.out with txValid := t.out.txValid, done := t.out.done } } := by
  cases moves with
  | edge r window buffered inside work =>
    rw [endEdge_frame, work.frame]
    rfl
  | endLine drain sent => rw [endLine_frame]
  | padPre | padPost | read | sendDirect | format | send => rfl

/-! ## The ends of commands and lines -/

/-- The end of a command stays in the transaction or ends it with the return to IDLE. -/
theorem endCommand_txn (s : State) :
    s.endCommand.txn = s.txn ∨ (s.endCommand.txn = .none ∧ s.endCommand.ph = .idle) := by
  rw [State.endCommand]
  split
  case h_1 => exact .inr ⟨rfl, rfl⟩
  case h_2 =>
    rw [State.endHeader]
    split
    case isTrue => exact .inr ⟨rfl, rfl⟩
    case isFalse => exact .inl rfl
  case h_3 => exact .inr ⟨rfl, rfl⟩

theorem endLine_txn (s : State) : s.endLine.txn = s.txn ∨ (s.endLine.txn = .none ∧ s.endLine.ph = .idle) := by
  rw [State.endLine]
  split
  case isTrue => exact .inr ⟨rfl, rfl⟩
  case isFalse => exact .inl rfl

theorem emitByte_txn (s : State) (b : Byte) :
    (s.emitByte b).txn = s.txn ∨ ((s.emitByte b).txn = .none ∧ (s.emitByte b).ph = .idle) := by
  obtain ⟨u, rfl, emits⟩ := emitByte_eq s b
  rw [emits]
  split
  case isTrue => exact endCommand_txn _
  case isFalse => exact .inl rfl

theorem LineMoves.txn {e : Event} {u t : State} (moves : LineMoves e u t) :
    t.txn = u.txn ∨ (t.txn = .none ∧ t.ph = .idle) := by
  cases moves with
  | edge r window buffered inside work =>
    rw [endEdge_frame, work.frame]
    exact .inl rfl
  | endLine drain sent => exact endLine_txn u
  | padPre | padPost | read | sendDirect | format | send => exact .inl rfl

/-- A move inside a line begins in a phase of a line. -/
theorem LineMoves.inLine {e : Event} {u t : State} (moves : LineMoves e u t) : inLine u = true := by
  cases moves <;> simp [Machine.inLine, *]

theorem LineMoves.ne_idle {e : Event} {u t : State} (moves : LineMoves e u t) : u.ph ≠ .idle := fun idle => by
  simpa [Machine.inLine, idle] using moves.inLine

theorem LineMoves.ne_cmd {e : Event} {u t : State} (moves : LineMoves e u t) : u.ph ≠ .cmd := fun command => by
  simpa [Machine.inLine, command] using moves.inLine

/-! ## The channel -/

/-- What a move does to the channel: nothing, the release of the byte in flight, or one hand-over (R95, R96). -/
inductive ChannelMoves (e : Event) (u t : State) : Prop where
  | keeps (wire : t.wire = u.wire) (txd : t.txd = u.txd) (busy : t.txbusy = u.txbusy)
  | releases (event : e = .linkDone) (wire : t.wire = u.wire) (txd : t.txd = u.txd) (inFlight : u.txbusy = true)
      (ready : t.txbusy = false)
  | handsOver (ready : u.txbusy = false) (inFlight : t.txbusy = true) (wire : t.wire = u.wire ++ [t.txd])

theorem EnvMoves.channel {e : Event} {u t : State} (moves : EnvMoves e u t) : ChannelMoves e u t := by
  cases moves with
  | release inFlight => exact .releases rfl rfl rfl inFlight rfl
  | still | tick | config | presentFrame | presentDebug | ackDebug => exact .keeps rfl rfl rfl

theorem Works.channel {e : Event} {u m : State} (work : Works u m) : ChannelMoves e u m := by
  cases work with
  | send b formatted ready => exact .handsOver ready rfl rfl
  | format | skip => exact .keeps rfl rfl rfl

theorem LineMoves.channel {e : Event} {u t : State} (moves : LineMoves e u t) : ChannelMoves e u t := by
  cases moves with
  | edge r window buffered inside work =>
    rw [endEdge_frame]
    rcases work.channel with ⟨wire, txd, busy⟩ | ⟨event, wire, txd, inFlight, ready⟩ | ⟨ready, inFlight, wire⟩
    · exact .keeps wire txd busy
    · exact .releases event wire txd inFlight ready
    · exact .handsOver ready inFlight wire
  | sendDirect sending ready => exact .handsOver ready rfl rfl
  | send b drain more formatted ready => exact .handsOver ready rfl rfl
  | endLine drain sent =>
    rw [endLine_frame]
    exact .keeps rfl rfl rfl
  | padPre | padPost | read | format => exact .keeps rfl rfl rfl

theorem Moves.channel {e : Event} {u t : State} (noReset : e ≠ .reset) (moves : Moves e u t) : ChannelMoves e u t := by
  cases moves with
  | env moves => exact moves.channel
  | accept _ idle accepts => cases accepts <;> exact .keeps rfl rfl rfl
  | byte b command ready =>
    rw [emitByte_frame]
    exact .handsOver ready rfl rfl
  | line moves => exact moves.channel
  | reset => exact absurd rfl noReset

theorem Takes.head_of_linkDone {s : State} {rest : List Event} (takes : Takes s .linkDone rest) :
    s.schedule.head? = some .linkDone := by
  rcases takes with scheduled | ⟨_, other, _⟩
  · rw [scheduled]
    rfl
  · cases other

/-- Settles O14: what the move of the step does to the channel. -/
theorem oneByteInFlight : Obligations.OneByteInFlight := by
  intro s t port noReset next
  obtain ⟨e, rest, takes, moves⟩ := step_moves port next
  rcases moves.channel (takes.not_reset noReset) with
    ⟨wire, txd, busy⟩ | ⟨rfl, wire, txd, inFlight, ready⟩ | ⟨ready, inFlight, wire⟩
  · exact .inl ⟨wire, txd, .inl busy⟩
  · exact .inl ⟨wire, txd, .inr ⟨inFlight, ready, takes.head_of_linkDone⟩⟩
  · exact .inr ⟨ready, inFlight, wire⟩

/-- Settles O25: in CMD the only move that hands a byte over is CMD.BYTE. -/
theorem commandNotInterleaved : Obligations.CommandNotInterleaved := by
  intro s t port command noReset next
  obtain ⟨e, rest, takes, moves⟩ := step_moves port next
  cases moves with
  | env moves => rw [moves.frame]; exact .inl rfl
  | accept _ idle => exact absurd (command.symm.trans idle) (by decide)
  | byte b _ ready byte => rw [emitByte_frame]; exact .inr ⟨b, byte, rfl⟩
  | line moves => exact absurd command moves.ne_cmd
  | reset => exact absurd rfl (takes.not_reset noReset)

/-! ## The transaction -/

theorem EnvMoves.keeps_acks {e : Event} {u t : State} (moves : EnvMoves e u t) (busy : u.ph ≠ .idle) :
    t.out = u.out := by
  cases moves with
  | ackDebug request idle => exact absurd idle busy
  | still | release | tick | config | presentFrame | presentDebug => rfl

/-- Settles O44: outside IDLE there is no accept, and the other moves write neither FCNT, DLEN, TEXT nor an
acknowledge. -/
theorem nothingAcceptedWhileBusy : Obligations.NothingAcceptedWhileBusy := by
  intro s t port busy noReset next
  obtain ⟨e, rest, takes, moves⟩ := step_moves port next
  cases moves with
  | env moves =>
    have out := moves.keeps_acks busy
    rw [moves.frame, out]
    exact ⟨rfl, rfl, rfl, rfl, rfl, .inl rfl⟩
  | accept _ idle => exact absurd idle busy
  | byte b =>
    have txn := emitByte_txn (s.taking rest) b
    rw [emitByte_frame]
    exact ⟨rfl, rfl, rfl, rfl, rfl, txn⟩
  | line moves =>
    have txn := moves.txn
    rw [moves.frame]
    exact ⟨rfl, rfl, rfl, rfl, rfl, txn⟩
  | reset => exact absurd rfl (takes.not_reset noReset)

/-- Settles O45: FRAME accept writes FCNT, at an idle block, and no other move does. -/
theorem frameCounterCountsAccepts : Obligations.FrameCounterCountsAccepts := by
  intro s t port noReset next
  obtain ⟨e, rest, takes, moves⟩ := step_moves port next
  cases moves with
  | env moves =>
    rw [moves.frame]
    exact .inl ⟨rfl, fun ⟨idle, command, _⟩ => absurd (idle.symm.trans command) (by decide)⟩
  | accept _ idle accepts =>
    cases accepts with
    | frame => exact .inr ⟨idle, rfl, rfl, rfl⟩
    | debug text legal => exact .inl ⟨rfl, fun ⟨_, _, frame⟩ => absurd frame (by simp)⟩
    | trigger => exact .inr ⟨idle, rfl, rfl, rfl⟩
  | byte b command =>
    rw [emitByte_frame]
    exact .inl ⟨rfl, fun ⟨idle, _⟩ => absurd (idle.symm.trans command) (by decide)⟩
  | line moves =>
    have busy := moves.ne_idle
    rw [moves.frame]
    exact .inl ⟨rfl, fun ⟨idle, _⟩ => busy idle⟩
  | reset => exact absurd rfl (takes.not_reset noReset)

/-! ## The configuration -/

/-- A move keeps CFG, or it is the reset. -/
theorem Moves.cfg_or_reset {e : Event} {u t : State} (moves : Moves e u t) :
    t.cfg = u.cfg ∨ (e = .reset ∧ t = u.resetBlock) := by
  cases moves with
  | env moves => rw [moves.frame]; exact .inl rfl
  | accept _ _ accepts => exact .inl (by cases accepts <;> rfl)
  | byte b => rw [emitByte_frame]; exact .inl rfl
  | line moves => rw [moves.frame]; exact .inl rfl
  | reset => exact .inr ⟨rfl, rfl⟩

theorem Moves.cfg {e : Event} {u t : State} (noReset : e ≠ .reset) (moves : Moves e u t) : t.cfg = u.cfg :=
  moves.cfg_or_reset.resolve_right fun reset => noReset reset.1

/-- Settles O54: the reset is the one move that writes CFG. -/
theorem configurationConstant : Obligations.ConfigurationConstant := by
  intro s t port next
  refine ⟨fun noReset => ?_, fun isReset => ?_⟩
  · obtain ⟨e, rest, takes, moves⟩ := step_moves port next
    have keeps := moves.cfg (takes.not_reset noReset)
    exact keeps
  · obtain ⟨rest, scheduled⟩ := List.head?_eq_some_iff.mp (not_not.mp isReset)
    have reset : step s = .next (s.taking rest).resetBlock := step_of_event port scheduled
    cases next.symm.trans reset
    rfl

end Sys2Proof.Machine
end

section
/-! The invariant of the block: the part of it that speaks of a line, and that every move keeps it (R13, R17, R31, R49,
R131). -/

namespace Sys2Proof.Machine

open Sys2Proof

/-! ## The line's part of the invariant -/

/-- What `BlockInv` asks of a state in a phase of a line, beside its row. -/
structure LineInv (s : State) : Prop where
  head : s.ph = .lPre → s.cap = 0 ∧ s.snd = 0 ∧ s.fmt = false ∧ s.hl = .high
  window : s.ph = .lAct → s.cap.toNat < lineBytes s.cfg
  backlog : s.ph = .lAct ∨ s.ph = .lPost → s.cfg.strat = .buf → 2 * s.snd.toNat + fmtCount s ≤ s.cap.toNat
  drain : captureOver s → s.cap.toNat = lineBytes s.cfg ∧ s.snd.toNat + fmtCount s ≤ s.cap.toNat
  directCursors : s.ph = .lAct ∨ captureOver s → s.cfg.strat = .dir → s.cap = s.snd
  directSending : s.ph = .lTx →
    s.cfg.strat = .dir ∧ s.cap.toNat = s.snd.toNat + 1 ∧ s.cap.toNat ≤ lineBytes s.cfg
  directFmt : s.cfg.strat = .dir → s.fmt = false
  bufferedRole : s.cfg.strat = .buf → (s.hl = .high ↔ (s.snd.toNat + fmtCount s) % 2 = 0)
  directRole : s.cfg.strat = .dir → (s.hl = .high ↔ s.cap.toNat % 2 = 0)
  captured : s.cfg.strat = .buf → ∀ i, i < s.cap.toNat → (memRead s.lb i).isSome = true

theorem BlockInv.lineInv {s : State} (inv : BlockInv s) (line : inLine s = true) : LineInv s where
  head := inv.lineHead
  window := inv.window
  backlog := inv.backlog
  drain := inv.drain
  directCursors := inv.directCursors
  directSending := inv.directSending
  directFmt := inv.directFmt line
  bufferedRole := inv.bufferedRole line
  directRole := inv.directRole line
  captured := inv.captured line

theorem inLine_ne_idle {s : State} (line : inLine s = true) : s.ph ≠ .idle := fun idle => by
  simp [inLine, idle] at line

theorem inLine_ne_cmd {s : State} (line : inLine s = true) : s.ph ≠ .cmd := fun command => by
  simp [inLine, command] at line

/-- A line is a frame's (R13, R140). -/
theorem BlockInv.frame_of_line {s : State} (inv : BlockInv s) (line : inLine s = true) : s.txn = .frame := by
  cases txn : s.txn with
  | frame => rfl
  | none => exact absurd (inv.idle.mp txn) (inLine_ne_idle line)
  | debug => exact absurd (inv.debugPhase txn) (inLine_ne_cmd line)

theorem BlockInv.of_line {s : State} (port : s.op = []) (lbForm : Memory.wf s.lb)
    (lbRange : ∀ c ∈ s.lb, c.1 < lineBytes s.cfg) (frame : s.txn = .frame) (line : inLine s = true)
    (row : s.row.toNat < s.cfg.height.toNat) (inv : LineInv s) : BlockInv s where
  port := port
  lbForm := lbForm
  lbRange := lbRange
  idle := ⟨fun none => absurd (frame.symm.trans none) (by decide), fun idle => absurd idle (inLine_ne_idle line)⟩
  debugPhase := fun debug => absurd (frame.symm.trans debug) (by decide)
  frameIndex := fun command => absurd command (inLine_ne_cmd line)
  debugIndex := fun debug => absurd (frame.symm.trans debug) (by decide)
  lineRow := fun _ => row
  lineHead := inv.head
  window := inv.window
  backlog := inv.backlog
  drain := inv.drain
  directCursors := inv.directCursors
  directSending := inv.directSending
  directFmt := fun _ => inv.directFmt
  bufferedRole := fun _ => inv.bufferedRole
  directRole := fun _ => inv.directRole
  captured := fun _ => inv.captured

/-- Outside a line the invariant speaks of the port, LB and the transaction only. -/
theorem BlockInv.of_no_line {s : State} (port : s.op = []) (lbForm : Memory.wf s.lb)
    (lbRange : ∀ c ∈ s.lb, c.1 < lineBytes s.cfg) (noLine : s.ph = .idle ∨ s.ph = .cmd)
    (idle : s.txn = .none ↔ s.ph = .idle) (debugPhase : s.txn = .debug → s.ph = .cmd)
    (frameIndex : s.ph = .cmd → s.txn = .frame → s.cidx.toNat ≤ 6)
    (debugIndex : s.txn = .debug →
      debugLength s.dlen.toNat = true ∧ s.text.length = s.dlen.toNat ∧ s.cidx.toNat ≤ s.dlen.toNat + 3) :
    BlockInv s := by
  have notLine : ¬ inLine s = true := fun line => noLine.elim (inLine_ne_idle line) (inLine_ne_cmd line)
  have notPre : s.ph ≠ .lPre := fun pre => notLine (by simp [inLine, pre])
  have notAct : s.ph ≠ .lAct := fun window => notLine (by simp [inLine, window])
  have notTx : s.ph ≠ .lTx := fun sending => notLine (by simp [inLine, sending])
  have notOver : ¬ captureOver s := fun ended => notLine (by rcases ended with post | drain <;> simp [inLine, *])
  exact {
    port := port
    lbForm := lbForm
    lbRange := lbRange
    idle := idle
    debugPhase := debugPhase
    frameIndex := frameIndex
    debugIndex := debugIndex
    lineRow := fun line => absurd line notLine
    lineHead := fun pre => absurd pre notPre
    window := fun window => absurd window notAct
    backlog := fun ends => ends.elim (fun window => absurd window notAct) (fun post => absurd (.inl post) notOver)
    drain := fun ended => absurd ended notOver
    directCursors := fun ends => ends.elim (fun window => absurd window notAct) (fun ended => absurd ended notOver)
    directSending := fun sending => absurd sending notTx
    directFmt := fun line => absurd line notLine
    bufferedRole := fun line => absurd line notLine
    directRole := fun line => absurd line notLine
    captured := fun line => absurd line notLine }

theorem BlockInv.of_idle {s : State} (port : s.op = []) (lbForm : Memory.wf s.lb)
    (lbRange : ∀ c ∈ s.lb, c.1 < lineBytes s.cfg) (idle : s.ph = .idle) (txn : s.txn = .none) : BlockInv s :=
  .of_no_line port lbForm lbRange (.inl idle) (iff_of_true txn idle)
    (fun debug => absurd (txn.symm.trans debug) (by decide)) (fun command => absurd (idle.symm.trans command) (by decide))
    (fun debug => absurd (txn.symm.trans debug) (by decide))

theorem BlockInv.of_frame_command {s : State} (port : s.op = []) (lbForm : Memory.wf s.lb)
    (lbRange : ∀ c ∈ s.lb, c.1 < lineBytes s.cfg) (command : s.ph = .cmd) (frame : s.txn = .frame)
    (index : s.cidx.toNat ≤ 6) : BlockInv s :=
  .of_no_line port lbForm lbRange (.inr command)
    (iff_of_false (by rw [frame]; decide) (by rw [command]; decide)) (fun _ => command) (fun _ _ => index)
    (fun debug => absurd (frame.symm.trans debug) (by decide))

theorem BlockInv.of_debug_command {s : State} (port : s.op = []) (lbForm : Memory.wf s.lb)
    (lbRange : ∀ c ∈ s.lb, c.1 < lineBytes s.cfg) (command : s.ph = .cmd) (isDebug : s.txn = .debug)
    (index : debugLength s.dlen.toNat = true ∧ s.text.length = s.dlen.toNat ∧ s.cidx.toNat ≤ s.dlen.toNat + 3) :
    BlockInv s :=
  .of_no_line port lbForm lbRange (.inr command)
    (iff_of_false (by rw [isDebug]; decide) (by rw [command]; decide)) (fun _ => command)
    (fun _ frame => absurd (isDebug.symm.trans frame) (by decide)) (fun _ => index)

/-! ## The head of a line -/

theorem fmtCount_of_true {s : State} (formatted : s.fmt = true) : fmtCount s = 1 := by
  rw [fmtCount, formatted]
  rfl

theorem fmtCount_of_false {s : State} (unformatted : s.fmt = false) : fmtCount s = 0 := by
  rw [fmtCount, unformatted]
  rfl

/-- Inside LB a byte follows SND, so that SND does not wrap. -/
theorem snd_succ {s : State} (inside : s.snd.toNat < lineBytes s.cfg) : (s.snd + 1).toNat = s.snd.toNat + 1 :=
  cursor_succ inside

/-- HL toggled stands for the next number of formatted bytes. -/
theorem toggle_role {hl : HighLow} {n : Nat} (role : hl = .high ↔ n % 2 = 0) : toggle hl = .high ↔ (n + 1) % 2 = 0 := by
  cases hl with
  | high =>
    have even := role.mp rfl
    exact iff_of_false (by decide) (by omega)
  | low =>
    have odd : ¬ n % 2 = 0 := fun even => absurd (role.mpr even) (by decide)
    exact iff_of_true rfl (by omega)

/-- After the logical reset nothing is captured, formatted or sent (R32). -/
theorem LineInv.startLine (s : State) : LineInv s.startLine where
  head _ := ⟨rfl, rfl, rfl, rfl⟩
  window act := by cases act
  backlog ends := by rcases ends with act | post <;> contradiction
  drain ended := by rcases ended with post | drain <;> contradiction
  directCursors ends := by rcases ends with act | post | drain <;> contradiction
  directSending sending := by cases sending
  directFmt _ := rfl
  bufferedRole _ := iff_of_true rfl rfl
  directRole _ := iff_of_true rfl rfl
  captured _ i below := absurd below (Nat.not_lt_zero i)

/-! ## The buffered window -/

/-- What a buffered edge keeps between its parts: the backlog, the role of HL, and the captured bytes. -/
structure WindowInv (s : State) : Prop where
  window : s.ph = .lAct
  buffered : s.cfg.strat = .buf
  inside : s.cap.toNat ≤ lineBytes s.cfg
  backlog : 2 * s.snd.toNat + fmtCount s ≤ s.cap.toNat
  role : s.hl = .high ↔ (s.snd.toNat + fmtCount s) % 2 = 0
  captured : ∀ i, i < s.cap.toNat → (memRead s.lb i).isSome = true

/-- After the capture one more unit of work is allowed for (R131 b). -/
theorem capture_windowInv {s : State} (r : Byte) (inv : LineInv s) (window : s.ph = .lAct)
    (buffered : s.cfg.strat = .buf) :
    WindowInv (s.capture r) ∧ 2 * s.snd.toNat + fmtCount s + 1 ≤ (s.capture r).cap.toNat := by
  have inside := inv.window window
  have cap : (s.capture r).cap.toNat = s.cap.toNat + 1 := cursor_succ inside
  have backlog := inv.backlog (.inl window) buffered
  have count : fmtCount (s.capture r) = fmtCount s := rfl
  refine ⟨⟨window, buffered, ?_, ?_, inv.bufferedRole buffered, fun i below => ?_⟩, ?_⟩
  · rw [cap]
    exact inside
  · rw [count, cap, capture_snd]
    omega
  · by_cases last : i = s.cap.toNat
    · rw [last, capture_lb, memRead_memWrite_self]
      rfl
    · exact memRead_isSome_memWrite r (inv.captured buffered i (by omega))
  · rw [cap]
    omega

/-- A work unit after the capture keeps the bound and the role (R131 b, d). -/
theorem Works.windowInv {u m : State} (work : Works u m) (inv : WindowInv u)
    (room : 2 * u.snd.toNat + fmtCount u + 1 ≤ u.cap.toNat) : WindowInv m := by
  cases work with
  | format b unformatted stored =>
    rw [fmtCount_of_false unformatted] at room
    have role := inv.role
    rw [fmtCount_of_false unformatted] at role
    refine ⟨inv.window, inv.buffered, inv.inside, ?_, toggle_role role, fun i below => ?_⟩
    · rw [fmtCount_of_true rfl]
      exact room
    · exact memRead_isSome_memWrite _ (inv.captured i below)
  | send b formatted ready stored =>
    rw [fmtCount_of_true formatted] at room
    have role := inv.role
    rw [fmtCount_of_true formatted] at role
    have inside := inv.inside
    have snd : (u.sendNext b).snd.toNat = u.snd.toNat + 1 := snd_succ (by omega)
    refine ⟨inv.window, inv.buffered, inv.inside, ?_, ?_, inv.captured⟩
    · rw [fmtCount_of_false rfl, snd]
      show 2 * (u.snd.toNat + 1) + 0 ≤ u.cap.toNat
      omega
    · rw [fmtCount_of_false rfl, snd]
      exact role
  | skip => exact inv

/-- The end of a buffered edge: the window goes on, or all 2W bytes are captured (R122). -/
theorem WindowInv.endEdge {m : State} (inv : WindowInv m) : LineInv m.endEdge := by
  have notDirect {P : Prop} (direct : m.cfg.strat = .dir) : P := absurd direct (ne_dir_of_buf inv.buffered)
  rw [State.endEdge]
  split
  case isTrue full =>
    have sent : m.snd.toNat + fmtCount m ≤ 2 * m.snd.toNat + fmtCount m := by omega
    exact {
      head := fun pre => by cases pre
      window := fun act => by cases act
      backlog := fun _ _ => inv.backlog
      drain := fun _ => ⟨full, Nat.le_trans sent inv.backlog⟩
      directCursors := fun _ direct => notDirect direct
      directSending := fun sending => by cases sending
      directFmt := notDirect
      bufferedRole := fun _ => inv.role
      directRole := notDirect
      captured := fun _ => inv.captured }
  case isFalse left =>
    have act := inv.window
    exact {
      head := fun pre => absurd (act.symm.trans pre) (by decide)
      window := fun _ => Nat.lt_of_le_of_ne inv.inside left
      backlog := fun _ _ => inv.backlog
      drain := fun ended => by rcases ended with post | drain <;> simp_all
      directCursors := fun _ direct => notDirect direct
      directSending := fun sending => absurd (act.symm.trans sending) (by decide)
      directFmt := notDirect
      bufferedRole := fun _ => inv.role
      directRole := notDirect
      captured := fun _ => inv.captured }

end Sys2Proof.Machine
end

section
/-! Every move keeps the invariant, and no event faults in a state of it (R13, R17, R31, R49, R131). -/

namespace Sys2Proof.Machine

open Sys2Proof

/-! ## The moves inside a line -/

/-- A line of width 0 goes to its end, another one to its window (R117). -/
theorem LineInv.padPre {s : State} (inv : LineInv s) (pre : s.ph = .lPre) :
    LineInv (s.setPhase (if 0 < s.cfg.width.toNat then .lAct else .lPost)) := by
  obtain ⟨cap, snd, unformatted, _⟩ := inv.head pre
  have capZero : s.cap.toNat = 0 := by rw [cap]; rfl
  have sndZero : s.snd.toNat = 0 := by rw [snd]; rfl
  have backlog : 2 * s.snd.toNat + fmtCount s ≤ s.cap.toNat := by
    rw [sndZero, fmtCount_of_false unformatted]
    exact Nat.zero_le _
  split
  case isTrue pixels =>
    exact { inv with
      head := fun other => by cases other
      window := fun _ => by
        show s.cap.toNat < 2 * s.cfg.width.toNat
        omega
      backlog := fun _ _ => backlog
      drain := fun ended => by rcases ended with post | drain <;> contradiction
      directCursors := fun _ _ => cap.trans snd.symm
      directSending := fun sending => by cases sending }
  case isFalse empty =>
    exact { inv with
      head := fun other => by cases other
      window := fun act => by cases act
      backlog := fun _ _ => backlog
      drain := fun _ => by
        show s.cap.toNat = 2 * s.cfg.width.toNat ∧ s.snd.toNat + fmtCount s ≤ s.cap.toNat
        omega
      directCursors := fun _ _ => cap.trans snd.symm
      directSending := fun sending => by cases sending }

theorem LineInv.padPost {s : State} (inv : LineInv s) (post : s.ph = .lPost) : LineInv (s.setPhase .lDrain) :=
  { inv with
    head := fun other => by cases other
    window := fun act => by cases act
    backlog := fun ends => by rcases ends with act | post <;> contradiction
    drain := fun _ => inv.drain (.inl post)
    directCursors := fun _ => inv.directCursors (.inr (.inl post))
    directSending := fun sending => by cases sending }

theorem LineInv.edge {s m : State} {r : Byte} (inv : LineInv s) (window : s.ph = .lAct)
    (buffered : s.cfg.strat = .buf) (work : Works (s.capture r) m) : LineInv m.endEdge := by
  obtain ⟨captured, room⟩ := capture_windowInv r inv window buffered
  exact (work.windowInv captured room).endEdge

/-- A direct read counts its byte at once (R128, R131 c, d). -/
theorem LineInv.read {s : State} (r : Byte) (inv : LineInv s) (window : s.ph = .lAct) (direct : s.cfg.strat = .dir) :
    LineInv { s with tmp := fmtBy s.hl r, hl := toggle s.hl, cap := s.cap + 1, ph := .lTx } := by
  have inside := inv.window window
  have cap : (s.cap + 1).toNat = s.cap.toNat + 1 := cursor_succ inside
  have equal := inv.directCursors (.inl window) direct
  have notBuffered {P : Prop} (buffered : s.cfg.strat = .buf) : P := absurd direct (ne_dir_of_buf buffered)
  exact {
    head := fun pre => by cases pre
    window := fun act => by cases act
    backlog := fun _ => notBuffered
    drain := fun ended => by rcases ended with post | drain <;> contradiction
    directCursors := fun ends => by rcases ends with act | post | drain <;> contradiction
    directSending := fun _ => ⟨direct, by rw [cap, equal], by rw [cap]; exact inside⟩
    directFmt := inv.directFmt
    bufferedRole := notBuffered
    directRole := fun _ => by
      show toggle s.hl = .high ↔ (s.cap + 1).toNat % 2 = 0
      rw [cap]
      exact toggle_role (inv.directRole direct)
    captured := notBuffered }

/-- The last byte of a direct line ends its window (R129). -/
theorem sentDirect_of_last {s : State} (last : (s.snd + 1).toNat = lineBytes s.cfg) :
    s.sentDirect = { s with snd := s.snd + 1, ph := .lPost } := by
  rw [State.sentDirect, if_pos last]

theorem sentDirect_of_more {s : State} (more : (s.snd + 1).toNat ≠ lineBytes s.cfg) :
    s.sentDirect = { s with snd := s.snd + 1, ph := .lAct } := by
  rw [State.sentDirect, if_neg more]

/-- A direct send closes the gap between the cursors (R129, R131 c). -/
theorem LineInv.sendDirect {s : State} (inv : LineInv s) (sending : s.ph = .lTx) :
    LineInv (s.handOver s.tmp).sentDirect := by
  obtain ⟨direct, cap, inside⟩ := inv.directSending sending
  have snd : (s.snd + 1).toNat = s.snd.toNat + 1 := cursor_succ (c := s.cfg) (by omega)
  have equal : s.cap = s.snd + 1 := BitVec.eq_of_toNat_eq (by rw [cap, snd])
  have none : fmtCount s = 0 := fmtCount_of_false (inv.directFmt direct)
  have notBuffered {P : Prop} (buffered : s.cfg.strat = .buf) : P := absurd direct (ne_dir_of_buf buffered)
  by_cases full : (s.snd + 1).toNat = lineBytes s.cfg
  · rw [sentDirect_of_last (s := s.handOver s.tmp) full]
    exact {
      head := fun pre => by cases pre
      window := fun act => by cases act
      backlog := fun _ => notBuffered
      drain := fun _ => ⟨cap.trans (snd.symm.trans full), show (s.snd + 1).toNat + fmtCount s ≤ s.cap.toNat by omega⟩
      directCursors := fun _ _ => equal
      directSending := fun sending => by cases sending
      directFmt := inv.directFmt
      bufferedRole := notBuffered
      directRole := inv.directRole
      captured := notBuffered }
  · rw [sentDirect_of_more (s := s.handOver s.tmp) full]
    exact {
      head := fun pre => by cases pre
      window := fun _ => show s.cap.toNat < lineBytes s.cfg by omega
      backlog := fun _ => notBuffered
      drain := fun ended => by rcases ended with post | drain <;> contradiction
      directCursors := fun _ _ => equal
      directSending := fun sending => by cases sending
      directFmt := inv.directFmt
      bufferedRole := notBuffered
      directRole := inv.directRole
      captured := notBuffered }

/-- In the drain only the buffered strategy has bytes left (R131 c). -/
theorem LineInv.buffered_of_more {s : State} (inv : LineInv s) (drain : s.ph = .lDrain)
    (more : s.snd.toNat < lineBytes s.cfg) : s.cfg.strat = .buf := by
  cases strat : s.cfg.strat with
  | buf => rfl
  | dir =>
    have full := (inv.drain (.inr drain)).1
    rw [inv.directCursors (.inr (.inr drain)) strat] at full
    exact absurd full (Nat.ne_of_lt more)

/-- A format in the drain (R124). -/
theorem LineInv.format {s : State} (b : Byte) (inv : LineInv s) (drain : s.ph = .lDrain)
    (more : s.snd.toNat < lineBytes s.cfg) (unformatted : s.fmt = false) : LineInv (s.formatted b) := by
  have buffered := inv.buffered_of_more drain more
  obtain ⟨full, _⟩ := inv.drain (.inr drain)
  have role := inv.bufferedRole buffered
  rw [fmtCount_of_false unformatted] at role
  have notDirect {P : Prop} (direct : s.cfg.strat = .dir) : P := absurd direct (ne_dir_of_buf buffered)
  have count : fmtCount (s.formatted b) = 1 := fmtCount_of_true rfl
  exact {
    head := fun pre => absurd (drain.symm.trans pre) (by decide)
    window := fun act => absurd (drain.symm.trans act) (by decide)
    backlog := fun ends => by simp [drain] at ends
    drain := fun _ => ⟨full, by rw [count]; exact full ▸ more⟩
    directCursors := fun _ => notDirect
    directSending := fun sending => absurd (drain.symm.trans sending) (by decide)
    directFmt := notDirect
    bufferedRole := fun _ => by rw [count]; exact toggle_role role
    directRole := notDirect
    captured := fun _ i below => memRead_isSome_memWrite b (inv.captured buffered i below) }

/-- A send in the drain (R125). -/
theorem LineInv.send {s : State} (b : Byte) (inv : LineInv s) (drain : s.ph = .lDrain)
    (more : s.snd.toNat < lineBytes s.cfg) (formatted : s.fmt = true) : LineInv (s.sendNext b) := by
  have buffered := inv.buffered_of_more drain more
  obtain ⟨full, sent⟩ := inv.drain (.inr drain)
  have role := inv.bufferedRole buffered
  rw [fmtCount_of_true formatted] at role sent
  have notDirect {P : Prop} (direct : s.cfg.strat = .dir) : P := absurd direct (ne_dir_of_buf buffered)
  have count : fmtCount (s.sendNext b) = 0 := fmtCount_of_false rfl
  have snd : (s.sendNext b).snd.toNat = s.snd.toNat + 1 := snd_succ more
  exact {
    head := fun pre => absurd (drain.symm.trans pre) (by decide)
    window := fun act => absurd (drain.symm.trans act) (by decide)
    backlog := fun ends => by simp [drain] at ends
    drain := fun _ => ⟨full, by rw [count, snd]; exact sent⟩
    directCursors := fun _ => notDirect
    directSending := fun sending => absurd (drain.symm.trans sending) (by decide)
    directFmt := notDirect
    bufferedRole := fun _ => by rw [count, snd]; exact role
    directRole := notDirect
    captured := fun _ => inv.captured buffered }

/-! ## The moves -/

theorem BlockInv.env {e : Event} {u t : State} (inv : BlockInv u) (moves : EnvMoves e u t) : BlockInv t := by
  rw [moves.frame]
  exact { inv with }

/-- The state in which the next event is taken differs in the schedule and the outputs only. -/
theorem BlockInv.taking {s : State} (inv : BlockInv s) (rest : List Event) : BlockInv (s.taking rest) :=
  { inv with }

theorem toNat_ofNat_length {text : List Byte} (legal : debugLength text.length = true) :
    (BitVec.ofNat 16 text.length).toNat = text.length := by
  obtain ⟨_, short⟩ := (debugLength_iff _).mp legal
  exact Nat.mod_eq_of_lt (by omega)

theorem BlockInv.accept {u t : State} (inv : BlockInv u) (accepts : Accepts u t) : BlockInv t := by
  cases accepts with
  | frame => exact .of_frame_command inv.port inv.lbForm inv.lbRange rfl rfl (Nat.zero_le 6)
  | trigger => exact .of_frame_command inv.port inv.lbForm inv.lbRange rfl rfl (Nat.zero_le 6)
  | debug text legal =>
    have dlen := toNat_ofNat_length legal
    refine .of_debug_command inv.port inv.lbForm inv.lbRange rfl rfl ⟨?_, dlen.symm, Nat.zero_le _⟩
    exact (congrArg debugLength dlen).trans legal

/-- The end of the header starts the first line or ends the frame (R150). -/
theorem BlockInv.endHeader {s : State} (port : s.op = []) (lbForm : Memory.wf s.lb)
    (lbRange : ∀ c ∈ s.lb, c.1 < lineBytes s.cfg) (frame : s.txn = .frame) : BlockInv s.endHeader := by
  by_cases empty : s.cfg.height = 0
  · rw [endHeader_empty empty]
    exact .of_idle port lbForm lbRange rfl rfl
  · rw [endHeader_lines empty]
    exact .of_line port lbForm lbRange frame rfl (BitVec.toNat_pos_of_ne_zero empty) (.startLine _)

/-- The end of a line starts the next one or ends the frame (R126). -/
theorem BlockInv.endLine {s : State} (inv : BlockInv s) (line : inLine s = true) : BlockInv s.endLine := by
  have inside := inv.lineRow line
  by_cases last : s.row + 1 = s.cfg.height
  · rw [endLine_last last]
    exact .of_idle inv.port inv.lbForm inv.lbRange rfl rfl
  · rw [endLine_next last]
    have row : (s.row + 1).toNat = s.row.toNat + 1 := row_succ inside
    have other : (s.row + 1).toNat ≠ s.cfg.height.toNat := fun equal => last (BitVec.eq_of_toNat_eq equal)
    refine .of_line inv.port inv.lbForm inv.lbRange (inv.frame_of_line line) rfl ?_ (.startLine _)
    show (s.row + 1).toNat < s.cfg.height.toNat
    omega

theorem BlockInv.lastIndex_le {s : State} (inv : BlockInv s) (command : s.ph = .cmd) :
    s.cidx.toNat ≤ lastIndex s ∧ lastIndex s < 511 := by
  cases txn : s.txn with
  | none => exact absurd (command.symm.trans (inv.idle.mp txn)) (by decide)
  | frame =>
    rw [lastIndex_of_frame txn]
    exact ⟨inv.frameIndex command txn, by decide⟩
  | debug =>
    obtain ⟨legal, _, index⟩ := inv.debugIndex txn
    rw [lastIndex_of_debug txn]
    exact ⟨index, by have := (debugLength_iff _).mp legal; omega⟩

/-- A command byte before the last one leaves CIDX inside the command (R102). -/
theorem BlockInv.emitByte {s : State} (b : Byte) (inv : BlockInv s) (command : s.ph = .cmd) :
    BlockInv (s.emitByte b) := by
  obtain ⟨index, short⟩ := inv.lastIndex_le command
  by_cases last : s.cidx.toNat = lastIndex s
  · rw [emitByte_of_last b last, State.endCommand, handOver_txn]
    cases txn : s.txn with
    | none => exact .of_idle inv.port inv.lbForm inv.lbRange rfl rfl
    | frame => exact .endHeader inv.port inv.lbForm inv.lbRange txn
    | debug => exact .of_idle inv.port inv.lbForm inv.lbRange rfl rfl
  · have before : s.cidx.toNat < lastIndex s := Nat.lt_of_le_of_ne index last
    have next : (s.cidx + 1).toNat = s.cidx.toNat + 1 := index_succ (Nat.lt_trans before short)
    rw [emitByte_of_before b before]
    cases txn : s.txn with
    | none => exact absurd (command.symm.trans (inv.idle.mp txn)) (by decide)
    | frame =>
      rw [lastIndex_of_frame txn] at before
      exact .of_frame_command inv.port inv.lbForm inv.lbRange command rfl (next ▸ before)
    | debug =>
      obtain ⟨legal, text, _⟩ := inv.debugIndex txn
      rw [lastIndex_of_debug txn] at before
      exact .of_debug_command inv.port inv.lbForm inv.lbRange command rfl ⟨legal, text, next ▸ before⟩

/-- A write inside the line keeps the form of LB and its range. -/
theorem BlockInv.memWrite {s : State} {i : Nat} (b : Byte) (inv : BlockInv s) (inside : i < lineBytes s.cfg) :
    Memory.wf (memWrite s.lb i b) ∧ ∀ c ∈ memWrite s.lb i b, c.1 < lineBytes s.cfg :=
  ⟨memWrite_wf i b inv.lbForm, memWrite_range b inside inv.lbRange⟩

/-- A work unit keeps the form of LB and its range. -/
theorem Works.lb {u m : State} (work : Works u m) (form : Memory.wf u.lb)
    (range : ∀ c ∈ u.lb, c.1 < lineBytes u.cfg) (inside : u.snd.toNat < lineBytes u.cfg) :
    Memory.wf m.lb ∧ ∀ c ∈ m.lb, c.1 < lineBytes m.cfg := by
  cases work with
  | format b => exact ⟨memWrite_wf _ _ form, memWrite_range _ inside range⟩
  | send | skip => exact ⟨form, range⟩

/-- After an edge the block is in the window or in L_POST. -/
theorem endEdge_inLine {m : State} (window : m.ph = .lAct) : inLine m.endEdge = true := by
  rw [State.endEdge]
  split
  case isTrue => rfl
  case isFalse => rw [inLine, window]

theorem endEdge_ne_lTx {m : State} (window : m.ph = .lAct) : m.endEdge.ph ≠ .lTx := by
  rw [State.endEdge]
  split
  case isTrue => exact fun sending => by cases sending
  case isFalse => rw [window]; decide

theorem BlockInv.line {e : Event} {u t : State} (inv : BlockInv u) (moves : LineMoves e u t) : BlockInv t := by
  have line := moves.inLine
  have frame := inv.frame_of_line line
  have row := inv.lineRow line
  have lineInv := inv.lineInv line
  cases moves with
  | padPre pre =>
    refine .of_line inv.port inv.lbForm inv.lbRange frame ?_ row (lineInv.padPre pre)
    by_cases pixels : 0 < u.cfg.width.toNat <;> simp [inLine, pixels]
  | padPost post => exact .of_line inv.port inv.lbForm inv.lbRange frame rfl row (lineInv.padPost post)
  | @edge r _ m window buffered inside work =>
    obtain ⟨form, range⟩ := inv.memWrite r inside
    have backlog := lineInv.backlog (.inl window) buffered
    obtain ⟨form, range⟩ := work.lb form range (show u.snd.toNat < lineBytes u.cfg by omega)
    have ended := lineInv.edge window buffered work
    have phase := endEdge_inLine (m := m) (work.keeps.1.trans window)
    rw [endEdge_frame] at phase ended ⊢
    rw [work.frame] at form range phase ended ⊢
    exact .of_line inv.port form range frame phase row ended
  | read r window direct =>
    exact .of_line inv.port inv.lbForm inv.lbRange frame rfl row (lineInv.read r window direct)
  | sendDirect sending ready =>
    refine .of_line inv.port inv.lbForm inv.lbRange frame ?_ row (lineInv.sendDirect sending)
    by_cases last : (u.snd + 1).toNat = lineBytes u.cfg
    · rw [sentDirect_of_last (s := u.handOver u.tmp) last]
      rfl
    · rw [sentDirect_of_more (s := u.handOver u.tmp) last]
      rfl
  | format b drain more unformatted stored =>
    obtain ⟨form, range⟩ := inv.memWrite (fmtBy u.hl b) more
    exact .of_line inv.port form range frame line row (lineInv.format _ drain more unformatted)
  | send b drain more formatted ready stored =>
    exact .of_line inv.port inv.lbForm inv.lbRange frame line row (lineInv.send b drain more formatted)
  | endLine drain sent => exact inv.endLine line

theorem BlockInv.moves {e : Event} {u t : State} (inv : BlockInv u) (moves : Moves e u t) : BlockInv t := by
  cases moves with
  | env moves => exact inv.env moves
  | accept _ _ accepts => exact inv.accept accepts
  | byte b command => exact inv.emitByte b command
  | line moves => exact inv.line moves
  | reset => exact .of_idle inv.port List.Pairwise.nil (fun c listed => absurd listed List.not_mem_nil) rfl rfl

theorem blockStep_keeps_inv (s t : State) (inv : BlockInv s) (next : blockStep s = .next t) : BlockInv t := by
  obtain ⟨e, rest, _, moves⟩ := blockStep_moves next
  exact (inv.taking rest).moves moves

/-- Settles O58: every move keeps the invariant. -/
theorem stepKeepsInvariant : Obligations.StepKeepsInvariant := fun s t inv next =>
  blockStep_keeps_inv s t inv ((step_of_empty_port inv.port).symm.trans next)

end Sys2Proof.Machine
end

section
/-! In a state of the invariant every read has its byte (R49): no event faults, and in a transaction each one but a change
of the configuration answers a next state. -/

namespace Sys2Proof.Machine

open Sys2Proof

/-! ## The command byte -/

/-- The byte at CIDX exists (R102, R103). -/
theorem BlockInv.commandByte {s : State} (inv : BlockInv s) (command : s.ph = .cmd) :
    ∃ b, commandByte s s.cidx.toNat = .ok b := by
  cases txn : s.txn with
  | none => exact absurd (command.symm.trans (inv.idle.mp txn)) (by decide)
  | frame =>
    rcases Nat.lt_or_eq_of_le (inv.frameIndex command txn) with before | last
    · exact ⟨_, commandByte_of_frame txn before (List.getElem?_eq_getElem before)⟩
    · exact ⟨_, last ▸ commandByte_of_frame_last txn⟩
  | debug =>
    obtain ⟨legal, text, index⟩ := inv.debugIndex txn
    rcases Nat.lt_or_eq_of_le index with before | last
    · have inside : s.cidx.toNat < (0x00 :: BitVec.ofNat 8 (s.dlen.toNat + 1) :: 0x13 :: s.text).length := by
        simp only [List.length_cons, text]
        exact before
      exact ⟨_, commandByte_of_debug txn legal before (List.getElem?_eq_getElem inside)⟩
    · exact ⟨_, last ▸ commandByte_of_debug_last txn legal⟩

theorem BlockInv.cmdByte_answers {s : State} (inv : BlockInv s) (command : s.ph = .cmd) :
    ∃ t, execCmdByte s = .next t := by
  obtain ⟨b, byte⟩ := inv.commandByte command
  cases busy : s.txbusy with
  | false => exact ⟨_, execCmdByte_of_ready command busy byte⟩
  | true => exact ⟨s, if_neg fun enabled => by simp [busy] at enabled⟩

/-! ## The line buffer -/

/-- In the window the byte at SND is captured, so the work unit that R74 selects has its byte. -/
theorem WindowInv.work_answers {u : State} (inv : WindowInv u) (captured : u.snd.toNat < u.cap.toNat) :
    ∃ m, Works u m ∧ workStep u = .next m := by
  obtain ⟨b, stored⟩ := Option.isSome_iff_exists.mp (inv.captured _ captured)
  have inside := Nat.lt_of_lt_of_le captured inv.inside
  have answers : ∃ m, workStep u = .next m := by
    rw [workStep]
    split
    case h_1 =>
      rw [execEdgeFormat]
      split
      case isTrue => exact ⟨_, readLb_captured _ inside captured stored⟩
      case isFalse => exact ⟨u, rfl⟩
    case h_2 =>
      rw [execEdgeSend]
      split
      case isTrue => exact ⟨_, readLb_captured _ inside captured stored⟩
      case isFalse => exact ⟨u, rfl⟩
    case h_3 => exact ⟨u, rfl⟩
  obtain ⟨m, next⟩ := answers
  exact ⟨m, work_of_next inv.window inv.buffered next, next⟩

/-- A buffered edge is a capture, one work unit and the end of the edge (R118 to R122). -/
theorem edgeStep_of_work {r : Byte} {u m : State} (window : u.ph = .lAct) (buffered : u.cfg.strat = .buf)
    (inside : u.cap.toNat < lineBytes u.cfg) (work : Works (u.capture r) m) (next : workStep (u.capture r) = .next m) :
    edgeStep r u = .next m.endEdge := by
  obtain ⟨phase, _, cfg⟩ := work.keeps
  have captures : execEdgeCapture r u = .next (u.capture r) := by
    rw [execEdgeCapture, if_pos ⟨window, buffered⟩, if_pos inside]
  rw [edgeStep_of_buffered window buffered, captures, andThen_of_next, next, andThen_of_next,
    execEdgeEnd_eq (phase.trans window) (by rw [cfg]; exact buffered)]

theorem LineInv.edge_answers {u : State} (r : Byte) (inv : LineInv u) (window : u.ph = .lAct)
    (buffered : u.cfg.strat = .buf) : ∃ m, Works (u.capture r) m ∧ edgeStep r u = .next m.endEdge := by
  obtain ⟨captured, room⟩ := capture_windowInv r inv window buffered
  obtain ⟨m, work, next⟩ := captured.work_answers (by rw [capture_snd]; omega)
  exact ⟨m, work, edgeStep_of_work window buffered (inv.window window) work next⟩

theorem LineInv.drain_answers {s : State} (inv : LineInv s) (drain : s.ph = .lDrain) :
    ∃ t, drainStep s = .next t := by
  obtain ⟨full, _⟩ := inv.drain (.inr drain)
  have reads (k : Byte → StepResult) (inside : s.snd.toNat < lineBytes s.cfg)
      (answers : ∀ b, ∃ t, k b = .next t) : ∃ t, readLb s s.snd.toNat k = .next t := by
    have buffered := inv.buffered_of_more drain inside
    have captured : s.snd.toNat < s.cap.toNat := full ▸ inside
    obtain ⟨b, stored⟩ := Option.isSome_iff_exists.mp (inv.captured buffered _ captured)
    rw [readLb_captured k inside captured stored]
    exact answers b
  rw [drainStep]
  split
  case h_1 =>
    rw [execLineEnd]
    split
    case isTrue => exact ⟨_, rfl⟩
    case isFalse => exact ⟨_, rfl⟩
  case h_2 =>
    rw [execDrainFormat]
    split
    case isTrue enabled => exact reads _ enabled.2.1 fun b => ⟨_, rfl⟩
    case isFalse => exact ⟨_, rfl⟩
  case h_3 =>
    rw [execDrainSend]
    split
    case isTrue enabled => exact reads _ enabled.2.1 fun b => ⟨_, rfl⟩
    case isFalse => exact ⟨_, rfl⟩
  case h_4 => exact ⟨_, rfl⟩

/-! ## The events -/

theorem BlockInv.seq_answers {u : State} (inv : BlockInv u) (busy : u.ph ≠ .idle) : ∃ t, seqStep u = .next t := by
  cases phase : u.ph with
  | idle => exact absurd phase busy
  | cmd => rw [seqStep_of_cmd phase]; exact inv.cmdByte_answers phase
  | lTx =>
    rw [seqStep_of_lTx phase, execDirSend]
    split
    case isTrue => exact ⟨_, rfl⟩
    case isFalse => exact ⟨_, rfl⟩
  | lDrain =>
    rw [seqStep_of_lDrain phase]
    exact (inv.lineInv (by rw [inLine, phase])).drain_answers phase
  | lPre => exact ⟨u, seqStep_of_sensor (.inl phase)⟩
  | lAct => exact ⟨u, seqStep_of_sensor (.inr (.inl phase))⟩
  | lPost => exact ⟨u, seqStep_of_sensor (.inr (.inr phase))⟩

theorem BlockInv.edge_answers {u : State} (r : Byte) (inv : BlockInv u) : ∃ t, edgeStep r u = .next t := by
  by_cases window : u.ph = .lAct
  case neg => exact ⟨u, edgeStep_of_ne_lAct r window⟩
  case pos =>
    cases strat : u.cfg.strat with
    | buf =>
      obtain ⟨m, _, next⟩ := (inv.lineInv (by rw [inLine, window])).edge_answers r window strat
      exact ⟨_, next⟩
    | dir =>
      rw [edgeStep_of_direct window strat]
      exact ⟨_, execDirRead_of_window r window strat⟩

theorem padStep_answers (u : State) : ∃ t, padStep u = .next t := by
  by_cases pre : u.ph = .lPre
  · exact ⟨_, (padStep_of_lPre pre).trans (if_pos pre)⟩
  · by_cases post : u.ph = .lPost
    · exact ⟨_, (padStep_of_lPost post).trans (if_pos post)⟩
    · exact ⟨u, padStep_of_not_padding pre post⟩

theorem linkDone_answers (u : State) : ∃ t, execLinkDone u = .next t := by
  cases busy : u.txbusy with
  | true => exact ⟨_, execLinkDone_of_busy busy⟩
  | false => exact ⟨_, execLinkDone_of_ready busy⟩

theorem reqFrame_answers (u : State) : ∃ t, execReqFrame u = .next t := by
  rcases execReqFrame_cases u with ⟨_, _, next⟩ | next
  · exact ⟨_, next⟩
  · exact ⟨_, next⟩

/-- In a transaction every event but a change of the configuration answers a next state. -/
theorem BlockInv.answers {e : Event} {u : State} (inv : BlockInv u) (busy : u.ph ≠ .idle)
    (noConfig : isConfig e = false) : ∃ t, eventStep e u = .next t := by
  cases e with
  | seq => exact inv.seq_answers busy
  | edge r => exact inv.edge_answers r
  | padDone => exact padStep_answers u
  | linkDone => exact linkDone_answers u
  | reqFrame => exact reqFrame_answers u
  | reqDebug text => exact ⟨_, execReqDebug_of_gated (fun idle => absurd idle busy) (.inl busy)⟩
  | tick => exact ⟨_, rfl⟩
  | reset => exact ⟨_, rfl⟩
  | config c => cases noConfig

theorem ne_fault_of_next {o : StepResult} (answers : ∃ t, o = .next t) (f : Fault) : o ≠ .fault f := by
  obtain ⟨t, rfl⟩ := answers
  simp

theorem execReqDebug_ne_fault (text : List Byte) (u : State) (f : Fault) : execReqDebug text u ≠ .fault f := by
  rcases execReqDebug_cases text u with ⟨_, o⟩ | ⟨_, _, o⟩ | ⟨_, _, o⟩ | ⟨_, o⟩ <;> simp [o]

theorem arbiterStep_ne_fault (u : State) (f : Fault) : arbiterStep u ≠ .fault f := by
  rw [arbiterStep]
  split
  case h_1 =>
    refine ne_fault_of_next ?_ f
    rw [execTickAccept]
    split
    case isTrue => exact ⟨_, rfl⟩
    case isFalse => exact ⟨_, rfl⟩
  case h_2 => exact ne_fault_of_next (reqFrame_answers u) f
  case h_3 =>
    split
    case h_1 text _ => exact execReqDebug_ne_fault text u f
    case h_2 => simp
  case h_4 => simp

theorem BlockInv.event_ne_fault {u : State} (inv : BlockInv u) (e : Event) (f : Fault) : eventStep e u ≠ .fault f := by
  cases e with
  | seq =>
    by_cases idle : u.ph = .idle
    · exact fun fault => arbiterStep_ne_fault u f ((seqStep_of_idle idle).symm.trans fault)
    · exact ne_fault_of_next (inv.seq_answers idle) f
  | edge r => exact ne_fault_of_next (inv.edge_answers r) f
  | padDone => exact ne_fault_of_next (padStep_answers u) f
  | linkDone => exact ne_fault_of_next (linkDone_answers u) f
  | reqFrame => exact ne_fault_of_next (reqFrame_answers u) f
  | reqDebug text => exact execReqDebug_ne_fault text u f
  | tick => exact ne_fault_of_next ⟨_, rfl⟩ f
  | reset => exact ne_fault_of_next ⟨_, rfl⟩ f
  | config c =>
    simp only [eventStep, configStep]
    split
    case isTrue => simp
    case isFalse => simp

/-- Settles O59: the event that the step takes finds every byte that it reads. -/
theorem invariantNeverFaults : Obligations.InvariantNeverFaults := by
  intro s inv f
  obtain ⟨e, rest, takes⟩ := exists_takes s
  rw [step_of_empty_port inv.port, blockStep_of_takes takes]
  exact (inv.taking rest).event_ne_fault e f

/-! ## The buffered edge -/

/-- The end of an edge sees the cursor that the capture advanced. -/
theorem endEdge_ph {m : State} (window : m.ph = .lAct) :
    m.endEdge.ph = if m.cap.toNat = lineBytes m.cfg then .lPost else .lAct := by
  rw [State.endEdge]
  split
  case isTrue => rfl
  case isFalse => exact window

/-- Reading LB after a capture. -/
theorem memRead_capture (s : State) (r : Byte) (j : Nat) : memRead (s.capture r).lb j = capturedView s r j := by
  rw [capturedView, capture_lb]
  split
  case isTrue same => rw [same, memRead_memWrite_self]
  case isFalse other => exact memRead_memWrite_ne s.lb r other

theorem memRead_memWrite (m : Memory) (i j : Nat) (b : Byte) :
    memRead (memWrite m i b) j = if j = i then some b else memRead m j := by
  split
  case isTrue same => rw [same, memRead_memWrite_self]
  case isFalse other => exact memRead_memWrite_ne m b other

/-- Settles O34: the edge's three parts, with one clause for each work unit. -/
theorem bufferedEdgeStep : Obligations.BufferedEdgeStep := by
  intro s r rest inv window buffered scheduled
  obtain ⟨m, work, next⟩ :=
    ((inv.taking rest).lineInv (by rw [inLine, taking_ph, window])).edge_answers r window buffered
  obtain ⟨phase, cap, cfg⟩ := work.keeps
  have step : step s = .next m.endEdge := (step_of_event inv.port scheduled).trans next
  have ends : m.endEdge.ph = if m.cap.toNat = lineBytes s.cfg then .lPost else .lAct := by
    rw [endEdge_ph (phase.trans window), cfg]
    rfl
  have view (j : Nat) : memRead ((s.taking rest).capture r).lb j = capturedView s r j :=
    memRead_capture (s.taking rest) r j
  rw [endEdge_frame] at step ends
  cases work with
  | format b unformatted stored =>
    refine ⟨_, b, step, (view _).symm.trans stored, rfl, ends, rfl, fun _ => ⟨rfl, rfl, rfl, rfl, rfl, rfl, fun j => ?_⟩,
      fun formatted => absurd (unformatted.symm.trans formatted) (by decide),
      fun formatted => absurd (unformatted.symm.trans formatted) (by decide)⟩
    rw [← view, formatted_lb, memRead_memWrite]
    rfl
  | send b formatted ready stored =>
    exact ⟨_, b, step, (view _).symm.trans stored, rfl, ends, rfl,
      fun unformatted => absurd (unformatted.symm.trans formatted) (by decide),
      fun _ _ => ⟨rfl, rfl, rfl, rfl, rfl, rfl, view⟩,
      fun _ inFlight => absurd (ready.symm.trans inFlight) (by decide)⟩
  | skip formatted inFlight =>
    obtain ⟨captured, room⟩ :=
      capture_windowInv r ((inv.taking rest).lineInv (by rw [inLine, taking_ph, window])) window buffered
    have sent : s.snd.toNat < ((s.taking rest).capture r).cap.toNat := by
      rw [taking_snd] at room
      omega
    obtain ⟨b, stored⟩ := Option.isSome_iff_exists.mp (captured.captured s.snd.toNat sent)
    exact ⟨_, b, step, (view _).symm.trans stored, rfl, ends, rfl,
      fun unformatted => absurd (unformatted.symm.trans formatted) (by decide),
      fun _ ready => absurd (ready.symm.trans inFlight) (by decide),
      fun _ _ => ⟨formatted, rfl, rfl, rfl, rfl, inFlight, view⟩⟩

/-- Settles O35: the invariant of the next state, whose configuration is the one before. -/
theorem backlogAtWindowEnd : Obligations.BacklogAtWindowEnd := by
  intro s t inv window buffered next post
  have ended := stepKeepsInvariant s t inv next
  have cfg : t.cfg = s.cfg := by
    obtain ⟨e, rest, _, moves⟩ := step_moves inv.port next
    rcases moves.cfg_or_reset with keeps | ⟨_, rfl⟩
    · exact keeps
    · cases post
  have full : t.cap.toNat = 2 * t.cfg.width.toNat := (ended.drain (.inl post)).1
  have backlog := ended.backlog (.inr post) (by rw [cfg, buffered])
  exact ⟨full, by omega⟩

end Sys2Proof.Machine
end

section
/-! The bytes of a command as CMD.BYTE hands them over, one after the other (R61, R62, R64, R102, R103). -/

namespace Sys2Proof.Machine

open Sys2Proof

/-! ## The command of a body -/

/-- The command that `s` emits is the wire command of `body`: `cmdbyte` reads marker, length and body, and CKS in the
place of the checksum. -/
structure EmitsBody (s : State) (body : List Byte) : Prop where
  last : lastIndex s = body.length + 2
  byte : ∀ i b, i < body.length + 2 → (0x00 :: BitVec.ofNat 8 body.length :: body)[i]? = some b →
    commandByte s i = .ok b
  checksum : commandByte s (body.length + 2) = .ok s.cks

/-- The body of the frame-start command of CFG (R105). -/
def frameBodyOf (c : Cfg) : List Byte :=
  frameBody (c.width.setWidth 10) (c.height.setWidth 10) (c.pixfmt.setWidth 4)

theorem frameCommand_eq_wireCommand (c : Cfg) : frameCommand c = wireCommand (frameBodyOf c) := rfl

theorem frameBodyOf_eq (c : Cfg) :
    frameBodyOf c = [0x11, c.width.setWidth 8, c.height.setWidth 8, packedByte c] := frameBody_setWidth c

theorem emitsBody_of_frame {s : State} (frame : s.txn = .frame) : EmitsBody s (frameBodyOf s.cfg) where
  last := lastIndex_of_frame frame
  byte i b before byte := by
    rw [frameBodyOf_eq] at byte
    exact commandByte_of_frame frame before byte
  checksum := commandByte_of_frame_last frame

theorem emitsBody_of_debug {s : State} (isDebug : s.txn = .debug) (legal : debugLength s.dlen.toNat = true)
    (text : s.text.length = s.dlen.toNat) : EmitsBody s (debugBody s.text) := by
  have length : (debugBody s.text).length = s.dlen.toNat + 1 := by rw [debugBody, List.length_cons, text]
  refine ⟨?_, fun i b before byte => ?_, ?_⟩
  · rw [lastIndex_of_debug isDebug, length]
  · rw [length] at before byte
    exact commandByte_of_debug isDebug legal before byte
  · rw [length]
    exact commandByte_of_debug_last isDebug legal

/-! ## The bytes so far -/

/-- Behind `w`, the first CIDX bytes of the command are on the wire, and CKS is the sum of the body's among them. -/
structure Emitted (s : State) (w body : List Byte) : Prop where
  wire : s.wire = w ++ (wireCommand body).take s.cidx.toNat
  sum : s.cks = xorAll (((wireCommand body).take s.cidx.toNat).drop 2)

theorem wireCommand_length (body : List Byte) : (wireCommand body).length = body.length + 3 := by
  simp [wireCommand]

/-- Before its checksum the command is marker, length and body. -/
theorem wireCommand_getElem? {body : List Byte} {i : Nat} (before : i < body.length + 2) :
    (wireCommand body)[i]? = (0x00 :: BitVec.ofNat 8 body.length :: body)[i]? := by
  rw [wireCommand, ← List.cons_append, ← List.cons_append, List.getElem?_append_left before]

/-- The command but for its checksum. -/
theorem wireCommand_take (body : List Byte) :
    (wireCommand body).take (body.length + 2) = 0x00 :: BitVec.ofNat 8 body.length :: body := by
  simp [wireCommand]

theorem EmitsBody.getElem? {s : State} {body : List Byte} {b : Byte} {i : Nat} (emits : EmitsBody s body)
    (before : i < body.length + 2) (byte : commandByte s i = .ok b) : (wireCommand body)[i]? = some b := by
  rw [wireCommand_getElem? before]
  have exists_byte := List.getElem?_eq_getElem (l := 0x00 :: BitVec.ofNat 8 body.length :: body) (i := i) before
  rw [exists_byte]
  cases (emits.byte i _ before exists_byte).symm.trans byte
  rfl

/-- A byte before the checksum: one byte more on the wire, and in the sum if it is the body's (R102). -/
theorem Emitted.before {s : State} {w body : List Byte} {b : Byte} (emitted : Emitted s w body)
    (emits : EmitsBody s body) (before : s.cidx.toNat < body.length + 2)
    (byte : commandByte s s.cidx.toNat = .ok b) :
    s.wire ++ [b] = w ++ (wireCommand body).take (s.cidx.toNat + 1) ∧
      (if 2 ≤ s.cidx.toNat then s.cks ^^^ b else s.cks) =
        xorAll (((wireCommand body).take (s.cidx.toNat + 1)).drop 2) := by
  have next : (wireCommand body).take (s.cidx.toNat + 1) = (wireCommand body).take s.cidx.toNat ++ [b] := by
    rw [List.take_add_one, emits.getElem? before byte, Option.toList_some]
  have length : ((wireCommand body).take s.cidx.toNat).length = s.cidx.toNat := by
    rw [List.length_take, wireCommand_length]
    omega
  refine ⟨by rw [next, emitted.wire, List.append_assoc], ?_⟩
  rw [next, emitted.sum]
  split
  case isTrue inBody => rw [List.drop_append_of_le_length (length.symm ▸ inBody), xorAll_append]
  case isFalse head => rw [List.drop_of_length_le (by omega), List.drop_of_length_le (by simp [length]; omega)]

/-- The checksum completes the command. -/
theorem Emitted.last {s : State} {w body : List Byte} {b : Byte} (emitted : Emitted s w body)
    (emits : EmitsBody s body) (last : s.cidx.toNat = body.length + 2) (byte : commandByte s s.cidx.toNat = .ok b) :
    s.wire ++ [b] = w ++ wireCommand body := by
  have sum : b = xorAll body := by
    rw [last, emits.checksum] at byte
    cases byte
    rw [emitted.sum, last, wireCommand_take]
    rfl
  rw [emitted.wire, last, wireCommand_take, sum, List.append_assoc]
  rfl

end Sys2Proof.Machine
end

section
/-! The grammar of the wire: every move keeps it (R60, R68, R69, R72). -/

namespace Sys2Proof.Machine

open Sys2Proof

/-! ## A frame's pixel bytes -/

/-- Behind complete units and a frame-start command, the pixel bytes that the line cursors count are on the wire, each
legal for its place. -/
def PixelsSent (s : State) : Prop :=
  ∃ w px, s.wire = w ++ (frameCommand s.cfg ++ px) ∧ WireStream s.cfg w ∧
    px.length = lineBytes s.cfg * s.row.toNat + s.snd.toNat ∧ legalPixels px

/-- The byte of LB that waits to be sent is legal for its place. -/
def BufferedLegal (s : State) : Prop :=
  s.fmt = true → ∀ b, memRead s.lb s.snd.toNat = some b → legalPixel s.snd.toNat b = true

theorem legalPixels_nil : legalPixels [] := fun i b at_i => by simp at at_i

theorem legalPixels_append {px : List Byte} {b : Byte} (legal : legalPixels px)
    (next : legalPixel px.length b = true) : legalPixels (px ++ [b]) := by
  intro i c at_i
  rcases Nat.lt_trichotomy i px.length with before | last | after
  · exact legal i c (by rwa [List.getElem?_append_left before] at at_i)
  · rw [last, List.getElem?_concat_length] at at_i
    cases at_i
    exact last ▸ next
  · rw [List.getElem?_eq_none (by simp; omega)] at at_i
    cases at_i

/-- A line has an even number of bytes, so a byte's place in the frame is as legal as its place in the line. -/
theorem legalPixel_line (c : Cfg) (row i : Nat) (b : Byte) :
    legalPixel (lineBytes c * row + i) b = legalPixel i b := by
  have even : (lineBytes c * row + i) % 2 = i % 2 := by
    rw [lineBytes, Nat.mul_assoc, Nat.mul_add_mod]
  rw [legalPixel, legalPixel, even]

/-- A legal byte sent. -/
theorem PixelsSent.sendNext {s : State} {b : Byte} (sent : PixelsSent s) (legal : legalPixel s.snd.toNat b = true)
    (inside : s.snd.toNat < lineBytes s.cfg) : PixelsSent (s.sendNext b) := by
  obtain ⟨w, px, wire, stream, length, pixels⟩ := sent
  have snd : (s.snd + 1).toNat = s.snd.toNat + 1 := snd_succ inside
  refine ⟨w, px ++ [b], ?_, stream, ?_, legalPixels_append pixels ?_⟩
  · rw [sendNext_wire, wire, List.append_assoc, List.append_assoc]
    rfl
  · rw [List.length_append, length, sendNext_snd, snd]
    rfl
  · rw [length, legalPixel_line]
    exact legal

/-- In the line's phases the unfinished unit of the wire is the frame. -/
theorem WireOk.pixelsSent {s : State} (ok : WireOk s) (frame : s.txn = .frame) (line : inLine s = true) :
    PixelsSent s := by
  obtain ⟨w, p, wire, stream, unit⟩ := ok.wire
  rw [unfinished, frame] at unit
  simp only [if_neg (inLine_ne_cmd line)] at unit
  obtain ⟨px, rfl, length, legal⟩ := unit
  exact ⟨w, px, wire, stream, length, legal⟩

theorem WireOk.bufferedLegal {s : State} (ok : WireOk s) (line : inLine s = true) (buffered : s.cfg.strat = .buf) :
    BufferedLegal s :=
  ok.buffered line buffered

theorem WireOk.of_line {s : State} (frame : s.txn = .frame) (line : inLine s = true) (sent : PixelsSent s)
    (buffered : s.cfg.strat = .buf → BufferedLegal s)
    (direct : s.ph = .lTx → legalPixel s.snd.toNat s.tmp = true) : WireOk s := by
  refine ⟨?_, fun _ => buffered, direct⟩
  obtain ⟨w, px, wire, stream, length, legal⟩ := sent
  refine ⟨w, frameCommand s.cfg ++ px, wire, stream, ?_⟩
  rw [unfinished, frame]
  simp only [if_neg (inLine_ne_cmd line)]
  exact ⟨px, rfl, length, legal⟩

/-- Outside a line no pixel byte waits. -/
theorem WireOk.of_no_line {s : State} (noLine : s.ph = .idle ∨ s.ph = .cmd)
    (wire : ∃ w p, s.wire = w ++ p ∧ WireStream s.cfg w ∧ unfinished s p) : WireOk s := by
  have notLine : ¬ inLine s = true := fun line => noLine.elim (inLine_ne_idle line) (inLine_ne_cmd line)
  exact ⟨wire, fun line => absurd line notLine, fun sending => absurd (by rw [inLine, sending]) notLine⟩

theorem WireOk.of_idle {s : State} (idle : s.ph = .idle) (txn : s.txn = .none) (stream : WireStream s.cfg s.wire) :
    WireOk s :=
  .of_no_line (.inl idle) ⟨s.wire, [], (List.append_nil _).symm, stream, by rw [unfinished, txn]⟩

/-! ## Commands -/

/-- The first byte of a frame-start command begins its unfinished unit, and so does each byte after it. -/
theorem WireOk.of_frame_command {s : State} {w : List Byte} (command : s.ph = .cmd) (frame : s.txn = .frame)
    (stream : WireStream s.cfg w) (emitted : Emitted s w (frameBodyOf s.cfg)) : WireOk s := by
  refine .of_no_line (.inr command) ⟨w, _, emitted.wire, stream, ?_⟩
  rw [unfinished, frame]
  simp only [if_pos command]
  exact ⟨rfl, emitted.sum⟩

theorem WireOk.of_debug_command {s : State} {w : List Byte} (command : s.ph = .cmd) (isDebug : s.txn = .debug)
    (stream : WireStream s.cfg w) (emitted : Emitted s w (debugBody s.text)) : WireOk s := by
  refine .of_no_line (.inr command) ⟨w, _, emitted.wire, stream, ?_⟩
  rw [unfinished, isDebug]
  exact ⟨rfl, emitted.sum⟩

theorem WireOk.frame_emitted {s : State} (ok : WireOk s) (command : s.ph = .cmd) (frame : s.txn = .frame) :
    ∃ w, WireStream s.cfg w ∧ Emitted s w (frameBodyOf s.cfg) := by
  obtain ⟨w, p, wire, stream, unit⟩ := ok.wire
  rw [unfinished, frame] at unit
  simp only [if_pos command] at unit
  obtain ⟨rfl, sum⟩ := unit
  exact ⟨w, stream, wire, sum⟩

theorem WireOk.debug_emitted {s : State} (ok : WireOk s) (isDebug : s.txn = .debug) :
    ∃ w, WireStream s.cfg w ∧ Emitted s w (debugBody s.text) := by
  obtain ⟨w, p, wire, stream, unit⟩ := ok.wire
  rw [unfinished, isDebug] at unit
  obtain ⟨rfl, sum⟩ := unit
  exact ⟨w, stream, wire, sum⟩

/-- At an idle block the wire has no unfinished unit. -/
theorem WireOk.stream_of_idle {s : State} (ok : WireOk s) (txn : s.txn = .none) : WireStream s.cfg s.wire := by
  obtain ⟨w, p, wire, stream, unit⟩ := ok.wire
  rw [unfinished, txn] at unit
  rw [wire, show p = [] from unit, List.append_nil]
  exact stream

theorem emitted_of_start {s : State} (body : List Byte) (index : s.cidx = 0) (sum : s.cks = 0) :
    Emitted s s.wire body := by
  refine ⟨?_, ?_⟩
  · rw [index]
    exact (List.append_nil _).symm
  · rw [index, sum]
    rfl

theorem WireOk.accept {u t : State} (ok : WireOk u) (txn : u.txn = .none) (accepts : Accepts u t) : WireOk t := by
  have stream := ok.stream_of_idle txn
  cases accepts with
  | frame => exact .of_frame_command rfl rfl stream (emitted_of_start _ rfl rfl)
  | trigger => exact .of_frame_command rfl rfl stream (emitted_of_start _ rfl rfl)
  | debug text => exact .of_debug_command rfl rfl stream (emitted_of_start _ rfl rfl)

/-- A frame without lines is its command alone. -/
theorem WireStream.empty_frame {c : Cfg} {w : List Byte} (stream : WireStream c w) (empty : c.height = 0) :
    WireStream c (w ++ frameCommand c) := by
  have length : ([] : List Byte).length = lineBytes c * c.height.toNat := by rw [empty]; rfl
  simpa using WireStream.frame w [] stream length legalPixels_nil

/-- The frame-start command is complete: the empty frame is a unit, another one goes on with its first line. -/
theorem WireOk.endHeader {s : State} {w : List Byte} (frame : s.txn = .frame) (stream : WireStream s.cfg w)
    (wire : s.wire = w ++ frameCommand s.cfg) : WireOk s.endHeader := by
  by_cases empty : s.cfg.height = 0
  · rw [endHeader_empty empty]
    refine .of_idle rfl rfl ?_
    show WireStream s.cfg s.wire
    exact wire ▸ stream.empty_frame empty
  · rw [endHeader_lines empty]
    refine .of_line frame rfl ⟨w, [], ?_, stream, rfl, legalPixels_nil⟩ (fun _ raised => by cases raised)
      (fun sending => by cases sending)
    rw [List.append_nil]
    exact wire

/-- A byte of the frame-start command. -/
theorem WireOk.emit_frame {s : State} {b : Byte} (ok : WireOk s) (inv : BlockInv s) (command : s.ph = .cmd)
    (frame : s.txn = .frame) (byte : commandByte s s.cidx.toNat = .ok b) : WireOk (s.emitByte b) := by
  obtain ⟨w, stream, emitted⟩ := ok.frame_emitted command frame
  have emits := emitsBody_of_frame frame
  rcases Nat.lt_or_eq_of_le (inv.lastIndex_le command).1 with before | last
  · obtain ⟨wire, sum⟩ := emitted.before emits (emits.last ▸ before) byte
    have next : (s.cidx + 1).toNat = s.cidx.toNat + 1 :=
      index_succ (Nat.lt_trans before (inv.lastIndex_le command).2)
    rw [emitByte_of_before b before]
    refine .of_frame_command command frame stream ⟨?_, ?_⟩
    · exact next ▸ wire
    · exact next ▸ sum
  · rw [emitByte_of_last b last, State.endCommand, handOver_txn, frame]
    exact .endHeader (s := s.handOver b) frame stream (emitted.last emits (emits.last ▸ last) byte)

/-- A byte of the debug-text command. -/
theorem WireOk.emit_debug {s : State} {b : Byte} (ok : WireOk s) (inv : BlockInv s) (command : s.ph = .cmd)
    (isDebug : s.txn = .debug) (byte : commandByte s s.cidx.toNat = .ok b) : WireOk (s.emitByte b) := by
  obtain ⟨w, stream, emitted⟩ := ok.debug_emitted isDebug
  obtain ⟨legal, text, _⟩ := inv.debugIndex isDebug
  have emits := emitsBody_of_debug isDebug legal text
  rcases Nat.lt_or_eq_of_le (inv.lastIndex_le command).1 with before | last
  · obtain ⟨wire, sum⟩ := emitted.before emits (emits.last ▸ before) byte
    have next : (s.cidx + 1).toNat = s.cidx.toNat + 1 :=
      index_succ (Nat.lt_trans before (inv.lastIndex_le command).2)
    rw [emitByte_of_before b before]
    refine .of_debug_command command isDebug stream ⟨?_, ?_⟩
    · exact next ▸ wire
    · exact next ▸ sum
  · rw [emitByte_of_last b last, State.endCommand, handOver_txn, isDebug]
    refine .of_idle rfl rfl ?_
    show WireStream s.cfg (s.wire ++ [b])
    rw [emitted.last emits (emits.last ▸ last) byte]
    exact .debug w s.text stream (text ▸ legal)

/-! ## The line -/

/-- The capture does not write the byte that waits to be sent. -/
theorem BufferedLegal.capture {s : State} (r : Byte) (legal : BufferedLegal s) (inv : LineInv s)
    (window : s.ph = .lAct) (buffered : s.cfg.strat = .buf) : BufferedLegal (s.capture r) := by
  intro formatted b stored
  have backlog := inv.backlog (.inl window) buffered
  rw [fmtCount_of_true (s := s) formatted] at backlog
  have other : s.snd.toNat ≠ s.cap.toNat := by omega
  refine legal formatted b ?_
  rw [← memRead_memWrite_ne s.lb r other]
  exact stored

/-- A formatted byte is legal for the role that HL stands for (R68, R131 d). -/
theorem BufferedLegal.formatted {s : State} (b : Byte) (role : s.hl = .high ↔ s.snd.toNat % 2 = 0) :
    BufferedLegal (s.formatted (fmtBy s.hl b)) := by
  intro _ c stored
  rw [formatted_lb, formatted_snd, memRead_memWrite_self] at stored
  cases stored
  exact fmtBy_legal _ _ _ role

theorem bufferedLegal_of_unformatted {s : State} (unformatted : s.fmt = false) : BufferedLegal s :=
  fun formatted => absurd (unformatted.symm.trans formatted) (by decide)

/-- A work unit sends the byte that waits, or makes another one wait. -/
theorem Works.wire {u m : State} (work : Works u m) (inv : WindowInv u)
    (room : 2 * u.snd.toNat + fmtCount u + 1 ≤ u.cap.toNat) (sent : PixelsSent u) (legal : BufferedLegal u) :
    PixelsSent m ∧ BufferedLegal m := by
  cases work with
  | format b unformatted stored =>
    have role := inv.role
    rw [fmtCount_of_false unformatted] at role
    exact ⟨sent, .formatted b role⟩
  | send b formatted ready stored =>
    have inside := inv.inside
    exact ⟨sent.sendNext (legal formatted b stored) (by omega), bufferedLegal_of_unformatted rfl⟩
  | skip => exact ⟨sent, legal⟩

/-- The end of a line: the frame is complete, or its next line begins. -/
theorem WireOk.endLine {s : State} (inv : BlockInv s) (line : inLine s = true) (sent : PixelsSent s)
    (whole : s.snd.toNat = lineBytes s.cfg) : WireOk s.endLine := by
  obtain ⟨w, px, wire, stream, length, legal⟩ := sent
  have row : (s.row + 1).toNat = s.row.toNat + 1 := row_succ (inv.lineRow line)
  have lines : px.length = lineBytes s.cfg * (s.row + 1).toNat := by rw [length, whole, row, Nat.mul_add, Nat.mul_one]
  by_cases last : s.row + 1 = s.cfg.height
  · rw [endLine_last last]
    refine .of_idle rfl rfl ?_
    show WireStream s.cfg s.wire
    rw [wire]
    exact .frame w px stream (last ▸ lines) legal
  · rw [endLine_next last]
    exact .of_line (inv.frame_of_line line) rfl ⟨w, px, wire, stream, lines, legal⟩ (fun _ raised => by cases raised)
      (fun sending => by cases sending)

/-- The read formats for the place that the send will count (R128, R131 c, d). -/
theorem LineInv.read_legal {s : State} (r : Byte) (inv : LineInv s) (window : s.ph = .lAct)
    (direct : s.cfg.strat = .dir) : legalPixel s.snd.toNat (fmtBy s.hl r) = true := by
  have role := inv.directRole direct
  rw [inv.directCursors (.inl window) direct] at role
  exact fmtBy_legal _ _ _ role

theorem WireOk.line {e : Event} {u t : State} (ok : WireOk u) (inv : BlockInv u) (moves : LineMoves e u t) :
    WireOk t := by
  have line := moves.inLine
  have frame := inv.frame_of_line line
  have lineInv := inv.lineInv line
  have sent := ok.pixelsSent frame line
  cases moves with
  | padPre pre =>
    by_cases pixels : 0 < u.cfg.width.toNat
    · rw [if_pos pixels]
      exact .of_line frame rfl sent (ok.bufferedLegal line) (fun sending => by cases sending)
    · rw [if_neg pixels]
      exact .of_line frame rfl sent (ok.bufferedLegal line) (fun sending => by cases sending)
  | padPost post => exact .of_line frame rfl sent (ok.bufferedLegal line) (fun sending => by cases sending)
  | @edge r _ m window buffered inside work =>
    obtain ⟨captured, room⟩ := capture_windowInv r lineInv window buffered
    have legal := (ok.bufferedLegal line buffered).capture r lineInv window buffered
    obtain ⟨sent, legal⟩ := work.wire captured room sent legal
    have act : m.ph = .lAct := work.keeps.1.trans window
    have phase := endEdge_inLine act
    have notTx := endEdge_ne_lTx act
    rw [endEdge_frame] at phase notTx ⊢
    refine .of_line ?_ phase sent (fun _ => legal) (fun sending => absurd sending notTx)
    rw [work.frame]
    exact frame
  | read r window direct =>
    exact .of_line frame rfl sent (fun buffered => absurd buffered (ne_buf_of_dir direct))
      (fun _ => lineInv.read_legal r window direct)
  | sendDirect sending ready =>
    obtain ⟨direct, cap, inside⟩ := lineInv.directSending sending
    have sent : PixelsSent (u.sendNext u.tmp) := sent.sendNext (ok.direct sending) (by omega)
    have notBuffered {P : Prop} (buffered : u.cfg.strat = .buf) : P := absurd direct (ne_dir_of_buf buffered)
    by_cases last : (u.snd + 1).toNat = lineBytes u.cfg
    · rw [sentDirect_of_last (s := u.handOver u.tmp) last]
      exact .of_line frame rfl sent notBuffered (fun sending => by cases sending)
    · rw [sentDirect_of_more (s := u.handOver u.tmp) last]
      exact .of_line frame rfl sent notBuffered (fun sending => by cases sending)
  | format b drain more unformatted stored =>
    have role := lineInv.bufferedRole (lineInv.buffered_of_more drain more)
    rw [fmtCount_of_false unformatted] at role
    exact .of_line frame line sent (fun _ => .formatted b role)
      (fun sending => absurd (drain.symm.trans sending) (by decide))
  | send b drain more formatted ready stored =>
    have legal := ok.bufferedLegal line (lineInv.buffered_of_more drain more) formatted b stored
    exact .of_line frame line (sent.sendNext legal more) (fun _ => bufferedLegal_of_unformatted rfl)
      (fun sending => absurd (drain.symm.trans sending) (by decide))
  | endLine drain whole => exact .endLine inv line sent whole

/-! ## The moves -/

theorem WireOk.taking {s : State} (ok : WireOk s) (rest : List Event) : WireOk (s.taking rest) :=
  ⟨ok.wire, ok.buffered, ok.direct⟩

theorem WireOk.moves {e : Event} {u t : State} (ok : WireOk u) (inv : BlockInv u) (moves : Moves e u t) : WireOk t := by
  cases moves with
  | env moves =>
    rw [moves.frame]
    exact ⟨ok.wire, ok.buffered, ok.direct⟩
  | accept _ idle accepts => exact ok.accept (inv.idle.mpr idle) accepts
  | byte b command ready byte =>
    cases txn : u.txn with
    | none => exact absurd (command.symm.trans (inv.idle.mp txn)) (by decide)
    | frame => exact ok.emit_frame inv command txn byte
    | debug => exact ok.emit_debug inv command txn byte
  | line moves => exact ok.line inv moves
  | reset => exact .of_idle rfl rfl .empty

/-- Settles O60: every move keeps the grammar. -/
theorem stepKeepsWireGrammar : Obligations.StepKeepsWireGrammar := by
  intro s t inv ok next
  obtain ⟨e, rest, _, moves⟩ := step_moves inv.port next
  exact (ok.taking rest).moves (inv.taking rest) moves

/-- Settles O57: the reset state is idle, with nothing in LB and nothing on the wire. -/
theorem resetStateMeetsInvariant : Obligations.ResetStateMeetsInvariant :=
  ⟨rfl, rfl, rfl, rfl, rfl, rfl, rfl, rfl, rfl, rfl, rfl, rfl, rfl, rfl, fun _ => rfl,
    .of_idle rfl List.Pairwise.nil (fun _ listed => absurd listed List.not_mem_nil) rfl rfl, .of_idle rfl rfl .empty⟩

end Sys2Proof.Machine
end

section
/-! Runs of the block: what is kept while a run goes on, and runs along a known schedule (R156, log 19). -/

namespace Sys2Proof.Machine

open Sys2Proof

/-! ## What a run keeps -/

/-- A property that every step taken by a run keeps is kept by the run. -/
theorem drive_keeps_while {P : State → Prop} {going : State → Bool}
    (keeps : ∀ s t, P s → going s = true → blockStep s = .next t → P t) :
    ∀ (fuel : Nat) (s t : State), P s → drive going fuel s = .next t → P t := by
  intro fuel
  induction fuel with
  | zero =>
    intro s t holds next
    cases next
    exact holds
  | succ n ih =>
    intro s t holds next
    simp only [drive] at next
    split at next
    case isTrue continues =>
      obtain ⟨m, first, later⟩ := andThen_next next
      have goes : going s = true := by simp at continues; exact continues.1
      exact ih m t (keeps s m holds goes first) later
    case isFalse =>
      cases next
      exact holds

theorem EnvMoves.schedule {e : Event} {u t : State} (moves : EnvMoves e u t) : t.schedule = u.schedule := by
  rw [moves.frame]

theorem LineMoves.schedule {e : Event} {u t : State} (moves : LineMoves e u t) : t.schedule = u.schedule := by
  rw [moves.frame]

/-- A move leaves the events after it. -/
theorem Moves.schedule {e : Event} {u t : State} (moves : Moves e u t) : t.schedule = u.schedule := by
  cases moves with
  | env moves => exact moves.schedule
  | accept _ _ accepts => cases accepts <;> rfl
  | byte b => rw [emitByte_frame]
  | line moves => exact moves.schedule
  | reset => rfl

/-- No reset is scheduled. -/
def NoResets (s : State) : Prop := ∀ e ∈ s.schedule, isReset e = false

theorem NoResets.not_reset {s : State} {e : Event} {rest : List Event} (noResets : NoResets s)
    (takes : Takes s e rest) : e ≠ .reset := by
  rcases takes with scheduled | ⟨_, rfl, _⟩
  · rintro rfl
    have listed : Event.reset ∈ s.schedule := by rw [scheduled]; exact List.mem_cons_self
    cases noResets _ listed
  · decide

theorem NoResets.moves {s t : State} {e : Event} {rest : List Event} (noResets : NoResets s) (takes : Takes s e rest)
    (moves : Moves e (s.taking rest) t) : NoResets t := by
  intro e' listed
  rw [moves.schedule, taking_schedule] at listed
  rcases takes with scheduled | ⟨_, _, rfl⟩
  · exact noResets e' (by rw [scheduled]; exact List.mem_cons_of_mem _ listed)
  · cases listed

/-! ## Runs along a schedule -/

/-- `n` steps of a run, each taking the next scheduled event, lead from the first state to the second. -/
inductive Runs (going : State → Bool) : Nat → State → State → Prop where
  | refl (s : State) : Runs going 0 s s
  | step {n : Nat} {s m t : State} {e : Event} {rest : List Event} (goes : going s = true)
      (scheduled : s.schedule = e :: rest) (next : eventStep e (s.taking rest) = .next m) (later : Runs going n m t) :
      Runs going (n + 1) s t

theorem Runs.one {going : State → Bool} {s t : State} {e : Event} {rest : List Event} (goes : going s = true)
    (scheduled : s.schedule = e :: rest) (next : eventStep e (s.taking rest) = .next t) : Runs going 1 s t :=
  .step goes scheduled next (.refl t)

theorem Runs.trans {going : State → Bool} {n k : Nat} {s m t : State} (first : Runs going n s m)
    (later : Runs going k m t) : Runs going (n + k) s t := by
  induction first with
  | refl => rwa [Nat.zero_add]
  | @step n _ _ _ _ _ goes scheduled next _ ih =>
    rw [Nat.add_right_comm]
    exact .step goes scheduled next (ih later)

/-- The run goes through these steps. -/
theorem Runs.drive {going : State → Bool} {n : Nat} {s t : State} (runs : Runs going n s t) (k : Nat) :
    drive going (n + k) s = drive going k t := by
  induction runs with
  | refl => rw [Nat.zero_add]
  | @step n s _ _ _ _ goes scheduled next _ ih =>
    rw [Nat.add_right_comm, Machine.drive, if_pos (by simp [goes, scheduled]), blockStep_cons scheduled, next,
      andThen_of_next, ih]

/-- Each step takes one event. -/
theorem Runs.length {going : State → Bool} {n : Nat} {s t : State} (runs : Runs going n s t) :
    n + t.schedule.length = s.schedule.length := by
  induction runs with
  | refl => rw [Nat.zero_add]
  | step goes scheduled next _ ih =>
    have left := (eventStep_moves next).schedule
    rw [taking_schedule] at left
    rw [scheduled, List.length_cons, ← left, ← ih]
    omega

/-- A run that leads to a state in which it does not go on ends there. -/
theorem Runs.driveAll {going : State → Bool} {n : Nat} {s t : State} (runs : Runs going n s t)
    (ended : going t = false) : driveAll going s = .next t := by
  have fuel : driveFuel s = n + (t.schedule.length + 4) := by rw [driveFuel, ← runs.length, Nat.add_assoc]
  rw [Machine.driveAll, fuel, runs.drive, Machine.drive, if_neg (by simp [ended])]

end Sys2Proof.Machine
end

section
/-! The two commands on the wire: under any schedule, and over a prompt link (R104, R106, R110, R150, R152). -/

namespace Sys2Proof.Machine

open Sys2Proof

/-! ## The command that a state emits -/

/-- The body of the command of the transaction (R105, R106). -/
def bodyOf (s : State) : List Byte :=
  match s.txn with
  | .none => []
  | .frame => frameBodyOf s.cfg
  | .debug => debugBody s.text

/-- The transaction has a command, a debug-text one with the length of its text. -/
def HasCommand (s : State) : Prop :=
  s.txn = .frame ∨ (s.txn = .debug ∧ debugLength s.dlen.toNat = true ∧ s.text.length = s.dlen.toNat)

theorem HasCommand.emitsBody {s : State} (has : HasCommand s) : EmitsBody s (bodyOf s) := by
  rcases has with frame | ⟨isDebug, legal, text⟩
  · rw [bodyOf, frame]
    exact emitsBody_of_frame frame
  · rw [bodyOf, isDebug]
    exact emitsBody_of_debug isDebug legal text

theorem HasCommand.short {s : State} (has : HasCommand s) : (bodyOf s).length + 2 < 511 := by
  rcases has with frame | ⟨isDebug, legal, text⟩
  · rw [bodyOf, frame]
    exact show 6 < 511 by decide
  · have bound := (debugLength_iff _).mp legal
    simp only [bodyOf, isDebug, debugBody, List.length_cons]
    omega

/-- Of the state `s` at the head of a command, what stays until the command ends. -/
structure SameCommand (s u : State) : Prop where
  ph : u.ph = s.ph
  txn : u.txn = s.txn
  cfg : u.cfg = s.cfg
  dlen : u.dlen = s.dlen
  text : u.text = s.text
  lb : u.lb = s.lb
  fcnt : u.fcnt = s.fcnt

theorem SameCommand.bodyOf {s u : State} (same : SameCommand s u) : bodyOf u = bodyOf s := by
  simp only [Machine.bodyOf, same.txn, same.cfg, same.text]

theorem SameCommand.hasCommand {s u : State} (same : SameCommand s u) (has : HasCommand s) : HasCommand u := by
  rw [HasCommand, same.txn, same.dlen, same.text]
  exact has

/-- The command of `s` is being emitted in `u`: its first CIDX bytes stand on the wire behind what stood there. -/
structure InCommand (s u : State) : Prop where
  same : SameCommand s u
  index : u.cidx.toNat ≤ (bodyOf s).length + 2
  emitted : Emitted u s.wire (bodyOf s)

theorem InCommand.head {s u : State} (same : SameCommand s u) (wire : u.wire = s.wire) (index : u.cidx = 0)
    (sum : u.cks = 0) : InCommand s u := by
  refine ⟨same, by rw [index]; exact Nat.zero_le _, ?_⟩
  rw [← wire]
  exact emitted_of_start _ index sum

theorem InCommand.emitsBody {s u : State} (inside : InCommand s u) (has : HasCommand s) : EmitsBody u (bodyOf s) :=
  inside.same.bodyOf ▸ (inside.same.hasCommand has).emitsBody

theorem InCommand.taking {s u : State} (inside : InCommand s u) (rest : List Event) : InCommand s (u.taking rest) :=
  ⟨{ inside.same with }, inside.index, inside.emitted.wire, inside.emitted.sum⟩

/-- A byte before the checksum (R102). -/
theorem InCommand.emitByte {s u : State} {b : Byte} (inside : InCommand s u) (has : HasCommand s)
    (before : u.cidx.toNat < (bodyOf s).length + 2) (byte : commandByte u u.cidx.toNat = .ok b) :
    InCommand s (u.emitByte b) ∧ (u.emitByte b).cidx.toNat = u.cidx.toNat + 1 := by
  have emits := inside.emitsBody has
  have next : (u.cidx + 1).toNat = u.cidx.toNat + 1 := index_succ (Nat.lt_trans before has.short)
  obtain ⟨wire, sum⟩ := inside.emitted.before emits before byte
  rw [emitByte_of_before b (emits.last.symm ▸ before)]
  refine ⟨⟨{ inside.same with }, ?_, ?_, ?_⟩, next⟩
  · exact next.symm ▸ before
  · exact next.symm ▸ wire
  · exact next.symm ▸ sum

/-- The checksum byte ends the command, all of it on the wire (R102). -/
theorem InCommand.emitByte_last {s u : State} {b : Byte} (inside : InCommand s u) (has : HasCommand s)
    (last : u.cidx.toNat = (bodyOf s).length + 2) (byte : commandByte u u.cidx.toNat = .ok b) :
    u.emitByte b = (u.handOver b).endCommand ∧ u.wire ++ [b] = s.wire ++ wireCommand (bodyOf s) := by
  have emits := inside.emitsBody has
  exact ⟨emitByte_of_last b (last.trans emits.last.symm), inside.emitted.last emits last byte⟩

theorem endCommand_ne_cmd (s : State) : s.endCommand.ph ≠ .cmd := by
  rw [State.endCommand]
  split
  case h_1 => exact fun command => by cases command
  case h_2 =>
    rw [State.endHeader]
    split
    case isTrue => exact fun command => by cases command
    case isFalse => exact fun command => by cases command
  case h_3 => exact fun command => by cases command

/-! ## Under any schedule -/

/-- The command of `s` is being emitted, or it has ended and stands on the wire whole. -/
def CommandRun (s u : State) : Prop :=
  NoResets u ∧ (InCommand s u ∨ (u.ph ≠ .cmd ∧ u.wire = s.wire ++ wireCommand (bodyOf s)))

/-- While the command goes on, no other agent hands over a byte or ends it (R110). -/
theorem CommandRun.step {s u t : State} (run : CommandRun s u) (has : HasCommand s) (command : u.ph = .cmd)
    (next : blockStep u = .next t) : CommandRun s t := by
  obtain ⟨noResets, inside | ⟨notCommand, _⟩⟩ := run
  case inr => exact absurd command notCommand
  obtain ⟨e, rest, takes, moves⟩ := blockStep_moves next
  have inside := inside.taking rest
  refine ⟨noResets.moves takes moves, ?_⟩
  cases moves with
  | env moves =>
    rw [moves.frame]
    exact .inl ⟨{ inside.same with }, inside.index, inside.emitted.wire, inside.emitted.sum⟩
  | accept _ idle => exact absurd (command.symm.trans idle) (by decide)
  | byte b _ _ byte =>
    rcases Nat.lt_or_eq_of_le inside.index with before | last
    · exact .inl (inside.emitByte has before byte).1
    · obtain ⟨ends, wire⟩ := inside.emitByte_last has last byte
      rw [ends]
      refine .inr ⟨endCommand_ne_cmd _, ?_⟩
      rw [endCommand_frame]
      exact wire
  | line moves => exact absurd command moves.ne_cmd
  | reset => exact absurd rfl (noResets.not_reset takes)

/-- What a run of the command's steps has put on the wire: the whole command, or its first CIDX bytes. -/
theorem driveAll_command {going : State → Bool} {s t : State} (has : HasCommand s)
    (inCommand : ∀ u, going u = true → u.ph = .cmd) (index : s.cidx = 0) (sum : s.cks = 0) (noResets : NoResets s)
    (command : s.ph = .cmd) (next : driveAll going s = .next t) :
    (t.ph ≠ .cmd → t.wire = s.wire ++ wireCommand (bodyOf s)) ∧
      (t.ph = .cmd → t.txn = s.txn ∧ t.wire = s.wire ++ (wireCommand (bodyOf s)).take t.cidx.toNat) := by
  have head : CommandRun s s := ⟨noResets, .inl (.head ⟨rfl, rfl, rfl, rfl, rfl, rfl, rfl⟩ rfl index sum)⟩
  obtain ⟨_, inside | ⟨notCommand, wire⟩⟩ :=
    drive_keeps_while (P := CommandRun s) (fun u v run goes step => run.step has (inCommand u goes) step) _ s t head next
  · exact ⟨fun other => absurd (inside.same.ph.trans command) other, fun _ => ⟨inside.same.txn, inside.emitted.wire⟩⟩
  · exact ⟨fun _ => wire, fun inCmd => absurd inCmd notCommand⟩

theorem emitting_iff (x : Txn) (s : State) : emitting x s = true ↔ s.ph = .cmd ∧ s.txn = x := by
  rw [emitting, decide_eq_true_iff]

/-- CMD_NEWFRAME with CFG's fields runs the command at hand (R104). -/
theorem exec_cmdNewframe_of_emitting {s : State} (command : s.ph = .cmd) (frame : s.txn = .frame) :
    exec (.cmdNewframe (s.cfg.width.setWidth 10) (s.cfg.height.setWidth 10) (s.cfg.pixfmt.setWidth 4)) s =
      driveAll (emitting .frame) s :=
  if_pos ⟨(emitting_iff _ _).mpr ⟨command, frame⟩, rfl⟩

/-- CMD_DEBUG with the accepted text runs the command at hand (R106). -/
theorem exec_cmdDebug_of_emitting {s : State} (command : s.ph = .cmd) (isDebug : s.txn = .debug)
    (legal : debugLength s.text.length = true) : exec (.cmdDebug s.text) s = driveAll (emitting .debug) s := by
  have arm : exec (.cmdDebug s.text) s = execCmdDebug s.text s := rfl
  obtain ⟨nonempty, short⟩ := (debugLength_iff _).mp legal
  rw [arm, execCmdDebug, if_neg (Nat.ne_of_gt nonempty),
    if_neg (Nat.not_lt.mpr (show s.text.length ≤ debugTextMax from short)),
    if_pos ⟨(emitting_iff _ _).mpr ⟨command, isDebug⟩, rfl⟩]

theorem bodyOf_of_frame {s : State} (frame : s.txn = .frame) : bodyOf s = frameBodyOf s.cfg := by
  rw [bodyOf, frame]

theorem bodyOf_of_debug {s : State} (isDebug : s.txn = .debug) : bodyOf s = debugBody s.text := by
  rw [bodyOf, isDebug]

/-- Settles O21: the run keeps that the bytes so far are the command's first CIDX. -/
theorem frameStartEmitsItsEncoding : Obligations.FrameStartEmitsItsEncoding := by
  rintro w h f s t command frame index sum noResets rfl rfl rfl next
  rw [exec_cmdNewframe_of_emitting command frame] at next
  have word : encode (.cmdNewframe (s.cfg.width.setWidth 10) (s.cfg.height.setWidth 10) (s.cfg.pixfmt.setWidth 4)) =
      wireCommand (bodyOf s) := by rw [bodyOf_of_frame frame]; rfl
  rw [word, ← frame]
  exact driveAll_command (.inl frame) (fun u goes => ((emitting_iff _ u).mp goes).1) index sum noResets command next

theorem hasCommand_of_text {s : State} (isDebug : s.txn = .debug) (legal : debugLength s.text.length = true)
    (length : s.dlen = BitVec.ofNat 16 s.text.length) : HasCommand s := by
  have dlen : s.dlen.toNat = s.text.length := length ▸ toNat_ofNat_length legal
  exact .inr ⟨isDebug, dlen.symm ▸ legal, dlen.symm⟩

/-- Settles O22: the same run, of the accepted text's command. -/
theorem debugEmitsItsEncoding : Obligations.DebugEmitsItsEncoding := by
  intro s t command isDebug index sum legal length noResets next
  rw [exec_cmdDebug_of_emitting command isDebug legal] at next
  have word : encode (.cmdDebug s.text) = wireCommand (bodyOf s) := by rw [bodyOf_of_debug isDebug]; rfl
  rw [word, ← isDebug]
  exact driveAll_command (hasCommand_of_text isDebug legal length) (fun u goes => ((emitting_iff _ u).mp goes).1)
    index sum noResets command next

/-! ## Over a prompt link -/

theorem commandEvents_succ (n : Nat) : commandEvents (n + 1) = .seq :: .linkDone :: commandEvents n := by
  rw [commandEvents, List.replicate_succ, List.flatten_cons]
  rfl

/-- Each byte goes out and is released at once, and the checksum ends the command (R102). -/
theorem command_runs {going : State → Bool} {s : State} (has : HasCommand s) (command : s.ph = .cmd)
    (goes : ∀ u, u.ph = .cmd → u.txn = s.txn → going u = true) (rest : List Event) :
    ∀ (n : Nat) (u : State), InCommand s u → u.txbusy = false → u.cidx.toNat + n = (bodyOf s).length + 2 →
      u.schedule = commandEvents (n + 1) ++ rest →
      ∃ v, SameCommand s v ∧ v.schedule = .linkDone :: rest ∧
        v.wire ++ [v.cks] = s.wire ++ wireCommand (bodyOf s) ∧
        Runs going (2 * n + 1) u (v.handOver v.cks).endCommand := by
  intro n
  induction n with
  | zero =>
    intro u inside idle last scheduled
    have scheduled : u.schedule = .seq :: .linkDone :: rest := scheduled
    have inside := inside.taking (.linkDone :: rest)
    have phase := inside.same.ph.trans command
    have byte : commandByte (u.taking (.linkDone :: rest)) u.cidx.toNat = .ok u.cks := by
      rw [show u.cidx.toNat = _ from last]
      exact (inside.emitsBody has).checksum
    obtain ⟨ends, wire⟩ := inside.emitByte_last has last byte
    refine ⟨u.taking (.linkDone :: rest), inside.same, rfl, wire,
      .one (goes u phase inside.same.txn) scheduled ?_⟩
    rw [eventStep, seqStep_of_cmd phase, execCmdByte_of_ready phase idle byte, ends]
    rfl
  | succ n ih =>
    intro u inside idle before scheduled
    rw [commandEvents_succ, List.cons_append, List.cons_append] at scheduled
    have goesOn := goes u (inside.same.ph.trans command) inside.same.txn
    have inside := inside.taking (.linkDone :: (commandEvents (n + 1) ++ rest))
    have phase := inside.same.ph.trans command
    have earlier : u.cidx.toNat < (bodyOf s).length + 2 := by omega
    have byte := (inside.emitsBody has).byte u.cidx.toNat _ earlier (List.getElem?_eq_getElem earlier)
    obtain ⟨sent, next⟩ := inside.emitByte has earlier byte
    have sends := execCmdByte_of_ready phase idle byte
    have isBefore := emitByte_frame (u.taking (.linkDone :: (commandEvents (n + 1) ++ rest)))
      ((0x00 :: BitVec.ofNat 8 (bodyOf s).length :: bodyOf s)[u.cidx.toNat])
    generalize (u.taking (.linkDone :: (commandEvents (n + 1) ++ rest))).emitByte _ = m at sent next sends isBefore
    have busy : m.txbusy = true := by rw [isBefore]
    have events : m.schedule = .linkDone :: (commandEvents (n + 1) ++ rest) := by rw [isBefore]; rfl
    have released : InCommand s { m.taking (commandEvents (n + 1) ++ rest) with txbusy := false } :=
      ⟨{ sent.same with }, sent.index, sent.emitted.wire, sent.emitted.sum⟩
    obtain ⟨v, same, left, wire, later⟩ := ih _ released rfl (next ▸ (Nat.add_right_comm _ 1 n).trans before) rfl
    refine ⟨v, same, left, wire, ?_⟩
    have first : Runs going 1 u m := .one goesOn scheduled (by rw [eventStep, seqStep_of_cmd phase, sends])
    have second : Runs going 1 m { m.taking (commandEvents (n + 1) ++ rest) with txbusy := false } :=
      .one (goes m (sent.same.ph.trans command) sent.same.txn) events (execLinkDone_of_busy busy)
    have all := (first.trans second).trans later
    rwa [show 1 + 1 + (2 * n + 1) = 2 * (n + 1) + 1 by omega] at all

/-- From its head a command over a prompt link runs to its end. -/
theorem command_runs_from_head {going : State → Bool} {s u : State} (has : HasCommand s) (command : s.ph = .cmd)
    (goes : ∀ u, u.ph = .cmd → u.txn = s.txn → going u = true) (inside : InCommand s u) (idle : u.txbusy = false)
    (index : u.cidx = 0) {rest : List Event} (scheduled : u.schedule = commandEvents ((bodyOf s).length + 3) ++ rest) :
    ∃ v n, SameCommand s v ∧ v.schedule = .linkDone :: rest ∧ v.wire ++ [v.cks] = s.wire ++ wireCommand (bodyOf s) ∧
      Runs going n u (v.handOver v.cks).endCommand := by
  obtain ⟨v, same, left, wire, runs⟩ := command_runs has command goes rest ((bodyOf s).length + 2) u inside idle
    (by rw [index]; exact Nat.zero_add _) scheduled
  exact ⟨v, _, same, left, wire, runs⟩

theorem endCommand_of_frame {s : State} (frame : s.txn = .frame) : s.endCommand = s.endHeader := by
  rw [State.endCommand, frame]

theorem endCommand_of_debug {s : State} (isDebug : s.txn = .debug) : s.endCommand = s.endDebug := by
  rw [State.endCommand, isDebug]

theorem endHeader_ph (s : State) : s.endHeader.ph = if s.cfg.height = 0 then .idle else .lPre := by
  rw [State.endHeader]
  split
  case isTrue => rfl
  case isFalse => rfl

theorem endHeader_row (s : State) : s.endHeader.row = 0 := by
  rw [State.endHeader]
  split
  case isTrue => rfl
  case isFalse => rfl

/-- Settles O23: both commands run from their head to their end. -/
theorem commandsOverPromptLink : Obligations.CommandsOverPromptLink := by
  intro s command idle index sum
  have inside : InCommand s s := .head ⟨rfl, rfl, rfl, rfl, rfl, rfl, rfl⟩ rfl index sum
  have stops (x : Txn) (t : State) : emitting x t.endCommand = false :=
    Bool.eq_false_of_not_eq_true fun emits => endCommand_ne_cmd t ((emitting_iff _ _).mp emits).1
  refine ⟨fun frame scheduled => ?_, fun isDebug legal length scheduled => ?_⟩
  · have seven : s.schedule = commandEvents ((bodyOf s).length + 3) ++ [] := by
      rw [bodyOf_of_frame frame, List.append_nil]
      exact scheduled
    obtain ⟨v, n, same, left, wire, runs⟩ := command_runs_from_head (.inl frame) command
      (fun u inCmd txn => (emitting_iff _ u).mpr ⟨inCmd, txn.trans frame⟩) inside idle index seven
    have ends : (v.handOver v.cks).endCommand = (v.handOver v.cks).endHeader :=
      endCommand_of_frame (s := v.handOver v.cks) (same.txn.trans frame)
    have next := runs.driveAll (stops .frame _)
    rw [ends] at next
    refine ⟨_, (exec_cmdNewframe_of_emitting command frame).trans next, ?_, ?_, endHeader_row _, ?_⟩
    · rw [endHeader_frame, frameCommand_eq_wireCommand, ← bodyOf_of_frame frame]
      exact wire
    · rw [endHeader_ph, handOver_cfg, same.cfg]
    · rw [endHeader_frame]
      exact ⟨rfl, same.lb, same.fcnt, same.cfg, left⟩
  · have events : s.schedule = commandEvents ((bodyOf s).length + 3) ++ [] := by
      rw [bodyOf_of_debug isDebug, List.append_nil]
      exact scheduled
    obtain ⟨v, n, same, left, wire, runs⟩ := command_runs_from_head (hasCommand_of_text isDebug legal length) command
      (fun u inCmd txn => (emitting_iff _ u).mpr ⟨inCmd, txn.trans isDebug⟩) inside idle index events
    have ends : (v.handOver v.cks).endCommand = (v.handOver v.cks).endDebug :=
      endCommand_of_debug (s := v.handOver v.cks) (same.txn.trans isDebug)
    have next := runs.driveAll (stops .debug _)
    rw [ends] at next
    rw [bodyOf_of_debug isDebug] at wire
    exact ⟨_, (exec_cmdDebug_of_emitting command isDebug legal).trans next, wire, rfl, rfl, rfl, rfl, same.lb, same.fcnt,
      same.cfg, left⟩

end Sys2Proof.Machine
end

section
/-! The buffered line on the wire, whatever the link does: LB holds the captured bytes, formatted up to the send cursor,
and the wire the formatted ones up to it (R115, R118 to R126, R132). -/

namespace Sys2Proof.Machine

open Sys2Proof

/-! ## A formatted line -/

/-- The byte at a place of a formatted line is the raw byte there, formatted by the function whose turn it is. -/
theorem formatLine_getElem? (raw : List Byte) : ∀ (hl turn : HighLow) (i : Nat), (turn = hl ↔ i % 2 = 0) →
    (formatLine hl raw)[i]? = raw[i]?.map (fmtBy turn) := by
  induction raw with
  | nil => exact fun _ _ _ _ => rfl
  | cons r rs ih =>
    intro hl turn i role
    cases i with
    | zero =>
      rw [role.mpr rfl]
      rfl
    | succ i =>
      refine ih (toggle hl) turn i ?_
      have parity : i % 2 = 0 ↔ ¬ (i + 1) % 2 = 0 := by omega
      rw [parity, ← role]
      cases hl <;> cases turn <;> decide

theorem formatLine_length (raw : List Byte) : ∀ hl, (formatLine hl raw).length = raw.length := by
  induction raw with
  | nil => exact fun _ => rfl
  | cons r rs ih => exact fun hl => congrArg (· + 1) (ih (toggle hl))

theorem formatLine_take (raw : List Byte) : ∀ (hl : HighLow) (n : Nat),
    (formatLine hl raw).take n = formatLine hl (raw.take n) := by
  induction raw with
  | nil => intro hl n; rw [List.take_nil]; exact List.take_nil
  | cons r rs ih =>
    intro hl n
    cases n with
    | zero => rfl
    | succ n => exact congrArg (fmtBy hl r :: ·) (ih (toggle hl) n)

/-! ## The bytes of the line in LB and on the wire -/

/-- Of a line with raw bytes `raw`, begun with wire `w` and memory `m`: the first SND formatted bytes are on the wire, LB
holds the captured bytes, the first SND + FMT of them formatted, and what lies outside the line is as it was. -/
structure LineContent (w : List Byte) (m : Memory) (raw : List Byte) (u : State) : Prop where
  wire : u.wire = w ++ (formatLine .high raw).take u.snd.toNat
  stored : ∀ i, i < u.cap.toNat →
    memRead u.lb i = if i < u.snd.toNat + fmtCount u then (formatLine .high raw)[i]? else raw[i]?
  outside : ∀ i, lineBytes u.cfg ≤ i → memRead u.lb i = memRead m i

section
variable {w : List Byte} {m : Memory} {raw : List Byte} {u : State}

/-- The raw byte whose turn it is comes to CAP (R118). -/
theorem LineContent.capture {r : Byte} (content : LineContent w m raw u) (inside : u.cap.toNat < lineBytes u.cfg)
    (ahead : u.snd.toNat + fmtCount u ≤ u.cap.toNat) (next : raw[u.cap.toNat]? = some r) :
    LineContent w m raw (u.capture r) := by
  have cap : (u.cap + 1).toNat = u.cap.toNat + 1 := cursor_succ inside
  refine ⟨content.wire, fun i below => ?_, fun i above => ?_⟩
  · rw [memRead_capture, capturedView]
    by_cases last : i = u.cap.toNat
    · have raw_at : ¬ i < u.snd.toNat + fmtCount u := by omega
      rw [if_pos last]
      exact (if_neg raw_at).trans (last ▸ next) |>.symm
    · rw [if_neg last]
      exact content.stored i (by rw [capture_cap, cap] at below; omega)
  · have other : i ≠ u.cap.toNat := by
      have : lineBytes u.cfg ≤ i := above
      omega
    rw [memRead_capture, capturedView, if_neg other]
    exact content.outside i above

/-- The byte at SND is formatted in place (R119, R124). -/
theorem LineContent.formatted {b : Byte} (content : LineContent w m raw u) (unformatted : u.fmt = false)
    (captured : u.snd.toNat < u.cap.toNat) (inside : u.snd.toNat < lineBytes u.cfg)
    (role : u.hl = .high ↔ u.snd.toNat % 2 = 0) (stored : memRead u.lb u.snd.toNat = some b) :
    LineContent w m raw (u.formatted (fmtBy u.hl b)) := by
  have count : fmtCount u = 0 := fmtCount_of_false unformatted
  have isRaw : raw[u.snd.toNat]? = some b := by
    have here := content.stored _ captured
    rw [count, Nat.add_zero, if_neg (Nat.lt_irrefl _), stored] at here
    exact here.symm
  refine ⟨content.wire, fun i below => ?_, fun i above => ?_⟩
  · have old := content.stored i below
    rw [fmtCount_of_true rfl, formatted_lb, memRead_memWrite, formatted_snd]
    by_cases here : i = u.snd.toNat
    · rw [if_pos here, if_pos (by omega), formatLine_getElem? raw .high u.hl i (here ▸ role), here, isRaw]
      rfl
    · rw [if_neg here, old, count, Nat.add_zero]
      by_cases before : i < u.snd.toNat
      · rw [if_pos before, if_pos (by omega)]
      · rw [if_neg before, if_neg (by omega)]
  · have other : i ≠ u.snd.toNat := by
      have : lineBytes u.cfg ≤ i := above
      omega
    rw [formatted_lb, memRead_memWrite, if_neg other]
    exact content.outside i above

/-- The formatted byte at SND goes out (R120, R125). -/
theorem LineContent.sendNext {b : Byte} (content : LineContent w m raw u) (formatted : u.fmt = true)
    (captured : u.snd.toNat < u.cap.toNat) (inside : u.snd.toNat < lineBytes u.cfg)
    (stored : memRead u.lb u.snd.toNat = some b) : LineContent w m raw (u.sendNext b) := by
  have count : fmtCount u = 1 := fmtCount_of_true formatted
  have snd : (u.snd + 1).toNat = u.snd.toNat + 1 := snd_succ inside
  have isNext : (formatLine .high raw)[u.snd.toNat]? = some b := by
    have here := content.stored _ captured
    rw [count, if_pos (Nat.lt_succ_self _), stored] at here
    exact here.symm
  refine ⟨?_, fun i below => ?_, content.outside⟩
  · rw [sendNext_wire, sendNext_snd, snd, List.take_add_one, isNext, content.wire, List.append_assoc]
    rfl
  · rw [fmtCount_of_false rfl, sendNext_snd, snd, sendNext_lb, content.stored i below, count]

/-- The work unit of the window. -/
theorem LineContent.work {t : State} (content : LineContent w m raw u) (inv : WindowInv u)
    (captured : u.snd.toNat < u.cap.toNat) (work : Works u t) : LineContent w m raw t := by
  have inside := Nat.lt_of_lt_of_le captured inv.inside
  cases work with
  | format b unformatted stored =>
    have role := inv.role
    rw [fmtCount_of_false unformatted] at role
    exact content.formatted unformatted captured inside role stored
  | send b formatted ready stored => exact content.sendNext formatted captured inside stored
  | skip => exact content

end

/-! ## A run inside the line -/

/-- The line that began in `s` with the edges `raw` ahead is being run in `u`. -/
structure BufferedLine (s : State) (raw : List Byte) (u : State) : Prop where
  inv : LineInv u
  phase : u.ph = .lAct ∨ captureOver u
  txn : u.txn = .frame
  cfg : u.cfg = s.cfg
  row : u.row = s.row
  fcnt : u.fcnt = s.fcnt
  content : LineContent s.wire s.lb raw u

/-- The edges that the window has not seen yet are still scheduled. -/
def EdgesAhead (raw : List Byte) (u : State) : Prop := u.ph = .lAct → rawEdges u.schedule = raw.drop u.cap.toNat

theorem BufferedLine.taking {s u : State} {raw : List Byte} (run : BufferedLine s raw u) (rest : List Event) :
    BufferedLine s raw (u.taking rest) :=
  { run with inv := { run.inv with }, content := ⟨run.content.wire, run.content.stored, run.content.outside⟩ }

/-- Only an edge takes a byte off the sensor. -/
theorem Takes.rawEdges {u : State} {e : Event} {rest : List Event} (takes : Takes u e rest)
    (noEdge : ∀ r, e ≠ .edge r) : rawEdges u.schedule = rawEdges rest := by
  rcases takes with scheduled | ⟨nothing, _, none⟩
  · rw [scheduled]
    cases e with
    | edge r => exact absurd rfl (noEdge r)
    | seq | padDone | linkDone | reqFrame | reqDebug | tick | reset | config => rfl
  · rw [nothing, none]

theorem Takes.schedule_of_edge {u : State} {r : Byte} {rest : List Event} (takes : Takes u (.edge r) rest) :
    u.schedule = .edge r :: rest := by
  rcases takes with scheduled | ⟨_, other, _⟩
  · exact scheduled
  · cases other

theorem EnvMoves.not_edge {e : Event} {u t : State} (moves : EnvMoves e u t) (window : u.ph = .lAct) :
    ∀ r, e ≠ .edge r := by
  rintro r rfl
  cases moves with
  | still _ _ lost => exact lost r rfl window
  | ackDebug request => simp at request

/-- The byte ahead of CAP, and the bytes after it. -/
theorem drop_eq_cons {raw later : List Byte} {r : Byte} {i : Nat} (ahead : r :: later = raw.drop i) :
    raw[i]? = some r ∧ later = raw.drop (i + 1) := by
  refine ⟨?_, ?_⟩
  · rw [← Nat.add_zero i, ← List.getElem?_drop, ← ahead]
    rfl
  · rw [← List.drop_drop, ← ahead]
    rfl

theorem BufferedLine.ne_lPre {s u : State} {raw : List Byte} (run : BufferedLine s raw u) : u.ph ≠ .lPre := fun pre => by
  rcases run.phase with act | post | drain <;> simp_all

theorem BufferedLine.inLine {s u : State} {raw : List Byte} (run : BufferedLine s raw u) : inLine u = true := by
  rcases run.phase with act | post | drain <;> simp [Machine.inLine, *]

/-- A buffered edge (R118 to R122). -/
theorem BufferedLine.edge {s u m : State} {raw : List Byte} {r : Byte} {rest : List Event}
    (run : BufferedLine s raw u) (window : u.ph = .lAct) (buffered : u.cfg.strat = .buf)
    (ahead : r :: rawEdges rest = raw.drop u.cap.toNat) (work : Works (u.capture r) m) (left : m.schedule = rest) :
    BufferedLine s raw m.endEdge ∧ EdgesAhead raw m.endEdge := by
  obtain ⟨next, later⟩ := drop_eq_cons ahead
  obtain ⟨captured, room⟩ := capture_windowInv r run.inv window buffered
  have inside := run.inv.window window
  have backlog := run.inv.backlog (.inl window) buffered
  have cap : (u.cap + 1).toNat = u.cap.toNat + 1 := cursor_succ inside
  have content := (run.content.capture inside (by omega) next).work captured (by rw [capture_snd]; omega) work
  have inv := run.inv.edge window buffered work
  have phase := endEdge_ph (m := m) (work.keeps.1.trans window)
  have frame := work.frame
  have edges : EdgesAhead raw m.endEdge := fun _ => by
    rw [endEdge_frame]
    show rawEdges m.schedule = raw.drop m.cap.toNat
    rw [left, work.keeps.2.1, capture_cap, cap]
    exact later
  refine ⟨⟨inv, ?_, ?_, ?_, ?_, ?_, ?_⟩, edges⟩
  · rw [captureOver, phase]
    split
    case isTrue => exact .inr (.inl rfl)
    case isFalse => exact .inl rfl
  · rw [endEdge_frame, frame]; exact run.txn
  · rw [endEdge_frame, frame]; exact run.cfg
  · rw [endEdge_frame, frame]; exact run.row
  · rw [endEdge_frame, frame]; exact run.fcnt
  · rw [endEdge_frame]
    exact ⟨content.wire, content.stored, content.outside⟩

/-- The drain's format and send (R124, R125). -/
theorem BufferedLine.format {s u : State} {raw : List Byte} {b : Byte} (run : BufferedLine s raw u)
    (drain : u.ph = .lDrain) (more : u.snd.toNat < lineBytes u.cfg) (unformatted : u.fmt = false)
    (stored : memRead u.lb u.snd.toNat = some b) : BufferedLine s raw (u.formatted (fmtBy u.hl b)) := by
  have role := run.inv.bufferedRole (run.inv.buffered_of_more drain more)
  rw [fmtCount_of_false unformatted] at role
  have full := (run.inv.drain (.inr drain)).1
  exact { run with
    inv := run.inv.format _ drain more unformatted
    content := run.content.formatted unformatted (full ▸ more) more role stored }

theorem BufferedLine.send {s u : State} {raw : List Byte} {b : Byte} (run : BufferedLine s raw u)
    (drain : u.ph = .lDrain) (more : u.snd.toNat < lineBytes u.cfg) (formatted : u.fmt = true)
    (stored : memRead u.lb u.snd.toNat = some b) : BufferedLine s raw (u.sendNext b) := by
  have full := (run.inv.drain (.inr drain)).1
  exact { run with
    inv := run.inv.send b drain more formatted
    content := run.content.sendNext formatted (full ▸ more) more stored }

theorem BufferedLine.padPost {s u : State} {raw : List Byte} (run : BufferedLine s raw u) (post : u.ph = .lPost) :
    BufferedLine s raw (u.setPhase .lDrain) :=
  { run with
    inv := run.inv.padPost post
    phase := .inr (.inr rfl)
    content := ⟨run.content.wire, run.content.stored, run.content.outside⟩ }

theorem edgesAhead_of_lDrain {raw : List Byte} {u : State} (drain : u.ph = .lDrain) : EdgesAhead raw u :=
  fun act => absurd (drain.symm.trans act) (by decide)

/-- A step inside the line stays in the line, or is its end with all 2W bytes sent (R126). -/
theorem BufferedLine.moves {s u t : State} {raw : List Byte} {e : Event} {rest : List Event}
    (run : BufferedLine s raw u) (ahead : EdgesAhead raw u) (buffered : s.cfg.strat = .buf) (takes : Takes u e rest)
    (noReset : e ≠ .reset) (moves : Moves e (u.taking rest) t) :
    (BufferedLine s raw t ∧ EdgesAhead raw t) ∨
      (BufferedLine s raw (u.taking rest) ∧ u.snd.toNat = lineBytes u.cfg ∧ t = (u.taking rest).endLine) := by
  have line := run.inLine
  have strat : u.cfg.strat = .buf := by rw [run.cfg, buffered]
  have run' := run.taking rest
  cases moves with
  | env moves =>
    have edges : EdgesAhead raw t := fun act => by
      rw [moves.frame] at act
      rw [moves.schedule, taking_schedule, ← takes.rawEdges (moves.not_edge act), ahead act, moves.frame]
      rfl
    refine .inl ⟨?_, edges⟩
    rw [moves.frame]
    exact { run' with
      inv := { run'.inv with }
      content := ⟨run'.content.wire, run'.content.stored, run'.content.outside⟩ }
  | accept _ idle => exact absurd idle (inLine_ne_idle line)
  | byte b command => exact absurd command (inLine_ne_cmd line)
  | reset => exact absurd rfl noReset
  | line moves =>
    cases moves with
    | padPre pre => exact absurd pre run.ne_lPre
    | padPost post => exact .inl ⟨run'.padPost post, edgesAhead_of_lDrain rfl⟩
    | @edge r _ m window _ inside work =>
      have edges : r :: rawEdges rest = raw.drop u.cap.toNat := by
        rw [← ahead window, takes.schedule_of_edge]
        rfl
      have left : m.schedule = rest := by
        rw [work.frame]
        rfl
      exact .inl (run'.edge window strat edges work left)
    | read r _ direct => exact absurd direct (ne_dir_of_buf strat)
    | sendDirect sending => exact absurd (run.inv.directSending sending).1 (ne_dir_of_buf strat)
    | format b drain more unformatted stored =>
      exact .inl ⟨run'.format drain more unformatted stored, edgesAhead_of_lDrain drain⟩
    | send b drain more formatted ready stored =>
      exact .inl ⟨run'.send drain more formatted stored, edgesAhead_of_lDrain drain⟩
    | endLine drain sent => exact .inr ⟨run', sent, rfl⟩

/-- At the head of the window the line holds nothing yet. -/
theorem bufferedLine_head {s : State} (window : s.ph = .lAct) (frame : s.txn = .frame) (pixels : s.cfg.width ≠ 0)
    (cap : s.cap = 0) (snd : s.snd = 0) (unformatted : s.fmt = false) (high : s.hl = .high) :
    BufferedLine s (rawEdges s.schedule) s ∧ EdgesAhead (rawEdges s.schedule) s := by
  have capZero : s.cap.toNat = 0 := by rw [cap]; rfl
  have sndZero : s.snd.toNat = 0 := by rw [snd]; rfl
  have count : fmtCount s = 0 := fmtCount_of_false unformatted
  have positive : 0 < s.cfg.width.toNat := BitVec.toNat_pos_of_ne_zero pixels
  have inv : LineInv s := {
    head := fun pre => absurd (window.symm.trans pre) (by decide)
    window := fun _ => by rw [capZero, lineBytes]; omega
    backlog := fun _ _ => by omega
    drain := fun ended => by simp [captureOver, window] at ended
    directCursors := fun _ _ => cap.trans snd.symm
    directSending := fun sending => absurd (window.symm.trans sending) (by decide)
    directFmt := fun _ => unformatted
    bufferedRole := fun _ => iff_of_true high (by omega)
    directRole := fun _ => iff_of_true high (by omega)
    captured := fun _ i below => absurd below (by omega) }
  have content : LineContent s.wire s.lb (rawEdges s.schedule) s := by
    refine ⟨?_, fun i below => absurd below (by omega), fun _ _ => rfl⟩
    rw [sndZero, List.take_zero, List.append_nil]
  exact ⟨⟨inv, .inl window, frame, rfl, rfl, rfl, content⟩, fun _ => by rw [capZero, List.drop_zero]⟩

theorem endLine_row (s : State) : s.endLine.row = s.row + 1 := by
  rw [State.endLine]
  split
  case isTrue => rfl
  case isFalse => rfl

theorem row_succ_ne (row : BitVec 16) : row + 1 ≠ row := by
  simp

theorem runningLine_iff (row : BitVec 16) (s : State) :
    runningLine row s = true ↔ inLine s = true ∧ s.txn = .frame ∧ s.row = row := by
  rw [runningLine, Bool.and_eq_true, decide_eq_true_iff]

/-- LINE_BUF runs the line at hand (R127). -/
theorem exec_lineBuf_of_running {s : State} (line : inLine s = true) (frame : s.txn = .frame)
    (buffered : s.cfg.strat = .buf) : exec .lineBuf s = driveAll (runningLine s.row) s :=
  if_pos ⟨(runningLine_iff _ _).mpr ⟨line, frame, rfl⟩, buffered⟩

/-- The line that began in `s` is being run, or has ended with the formatted bytes of its first 2W edges on the wire. -/
def BufferedLineRun (s u : State) : Prop :=
  NoResets u ∧ ((BufferedLine s (rawEdges s.schedule) u ∧ EdgesAhead (rawEdges s.schedule) u) ∨
    (u.row = s.row + 1 ∧ u.wire = s.wire ++ (formatLine .high (rawEdges s.schedule)).take (lineBytes s.cfg)))

theorem BufferedLineRun.step {s u t : State} (run : BufferedLineRun s u) (buffered : s.cfg.strat = .buf)
    (goes : runningLine s.row u = true) (next : blockStep u = .next t) : BufferedLineRun s t := by
  obtain ⟨noResets, ⟨run, ahead⟩ | ⟨row, _⟩⟩ := run
  case inr => exact absurd (((runningLine_iff _ _).mp goes).2.2.symm.trans row).symm (row_succ_ne s.row)
  obtain ⟨e, rest, takes, moves⟩ := blockStep_moves next
  refine ⟨noResets.moves takes moves, ?_⟩
  rcases run.moves ahead buffered takes (noResets.not_reset takes) moves with inside | ⟨last, sent, rfl⟩
  · exact .inl inside
  · refine .inr ⟨(endLine_row _).trans (congrArg (· + 1) last.row), ?_⟩
    have wire := last.content.wire
    rw [taking_snd, sent, run.cfg] at wire
    rw [endLine_frame]
    exact wire

/-- Settles O36: a run that leaves the line's row has ended the line. -/
theorem bufferedLineOnTheWire : Obligations.BufferedLineOnTheWire := by
  intro s t window frame buffered pixels cap snd unformatted high noResets next ended
  rw [exec_lineBuf_of_running (by rw [inLine, window]) frame buffered] at next
  have head : BufferedLineRun s s := ⟨noResets, .inl (bufferedLine_head window frame pixels cap snd unformatted high)⟩
  obtain ⟨_, ⟨run, _⟩ | ⟨row, wire⟩⟩ := drive_keeps_while (P := BufferedLineRun s)
    (fun u v run goes step => run.step buffered goes step) _ s t head next
  · exact absurd run.row ended
  · exact ⟨row, formatLine_take _ _ _ ▸ wire⟩

end Sys2Proof.Machine
end

section
/-! A line over a prompt link, buffered and direct: each event of its schedule, in order, to the end of the line (R115,
R122 to R126, R128 to R130, R132, R184). -/

namespace Sys2Proof.Machine

open Sys2Proof

/-! ## The link -/

/-- The release of the byte in flight, if there is one, leaves the link ready. -/
theorem execLinkDone_eq (s : State) : execLinkDone s = .next { s with txbusy := false } := by
  cases busy : s.txbusy with
  | true => exact execLinkDone_of_busy busy
  | false =>
    have same : { s with txbusy := false } = s := by rw [← busy]
    rw [execLinkDone_of_ready busy, same]

theorem Runs.linkDone {going : State → Bool} {u : State} {rest : List Event} (goes : going u = true)
    (scheduled : u.schedule = .linkDone :: rest) : Runs going 1 u { u.taking rest with txbusy := false } :=
  .one goes scheduled (execLinkDone_eq _)

/-! ## What a line leaves -/

/-- The line that began in `u` is sent in `v`: SEQ stands at its LINE_END, its bytes on the wire, the link ready. -/
structure LineSent (u v : State) (bytes : List Byte) : Prop where
  drain : v.ph = .lDrain
  sent : v.snd.toNat = lineBytes v.cfg
  txn : v.txn = .frame
  cfg : v.cfg = u.cfg
  row : v.row = u.row
  fcnt : v.fcnt = u.fcnt
  wire : v.wire = u.wire ++ bytes
  ready : v.txbusy = false

/-- With all bytes sent SEQ's step in L_DRAIN is LINE_END (R75). -/
theorem seqStep_of_sent {s : State} (drain : s.ph = .lDrain) (sent : s.snd.toNat = lineBytes s.cfg) :
    seqStep s = .next s.endLine := by
  have unit : drainUnit s = .lineEnd := by
    rw [drainUnit_eq, more, sent]
    simp
  rw [seqStep_of_lDrain drain, drainStep, unit]
  exact execLineEnd_of_sent drain sent

theorem Runs.lineEnd {going : State → Bool} {u : State} {rest : List Event} (goes : going u = true)
    (scheduled : u.schedule = .seq :: rest) (drain : u.ph = .lDrain) (sent : u.snd.toNat = lineBytes u.cfg) :
    Runs going 1 u (u.taking rest).endLine :=
  .one goes scheduled (seqStep_of_sent (s := u.taking rest) drain sent)

/-- The run goes on in every state of the line that began in `s`. -/
def GoesInLine (going : State → Bool) (s : State) : Prop :=
  ∀ u, inLine u = true → u.txn = .frame → u.row = s.row → going u = true

/-! ## The buffered line -/

theorem BufferedLine.goes {going : State → Bool} {s u : State} {raw : List Byte} (goes : GoesInLine going s)
    (run : BufferedLine s raw u) : going u = true :=
  goes u run.inLine run.txn run.row

/-- A step inside the line whose next state is not at an end of a line. -/
theorem BufferedLine.event {s u t : State} {raw : List Byte} {e : Event} {rest : List Event}
    (run : BufferedLine s raw u) (ahead : EdgesAhead raw u) (buffered : s.cfg.strat = .buf)
    (scheduled : u.schedule = e :: rest) (noReset : e ≠ .reset) (next : eventStep e (u.taking rest) = .next t)
    (inside : t.ph = .lAct ∨ captureOver t) : BufferedLine s raw t ∧ EdgesAhead raw t := by
  rcases run.moves ahead buffered (.inl scheduled) noReset (eventStep_moves next) with stays | ⟨_, _, rfl⟩
  · exact stays
  · refine absurd inside ?_
    rw [captureOver, State.endLine]
    split
    case isTrue => exact fun phases => by rcases phases with act | post | drain <;> contradiction
    case isFalse => exact fun phases => by rcases phases with act | post | drain <;> contradiction

/-- With the link ready no edge is wasted: after each, twice the bytes sent and the formatted one make up the captured
ones. -/
theorem Works.balanced {u m : State} (work : Works u m) (ready : u.txbusy = false)
    (inside : u.snd.toNat < lineBytes u.cfg) (balance : 2 * u.snd.toNat + fmtCount u + 1 = u.cap.toNat) :
    2 * m.snd.toNat + fmtCount m = m.cap.toNat := by
  cases work with
  | format b unformatted stored =>
    rw [fmtCount_of_false unformatted] at balance
    rw [fmtCount_of_true rfl]
    exact balance
  | send b formatted _ stored =>
    have snd : (u.sendNext b).snd.toNat = u.snd.toNat + 1 := snd_succ inside
    rw [fmtCount_of_true formatted] at balance
    rw [fmtCount_of_false rfl, snd, sendNext_cap]
    omega
  | skip formatted inFlight => exact absurd (ready.symm.trans inFlight) (by decide)

theorem endEdge_cap (m : State) : m.endEdge.cap = m.cap := by rw [endEdge_frame]
theorem endEdge_snd (m : State) : m.endEdge.snd = m.snd := by rw [endEdge_frame]
theorem endEdge_fmt (m : State) : m.endEdge.fmt = m.fmt := by rw [endEdge_frame]
theorem endEdge_cfg (m : State) : m.endEdge.cfg = m.cfg := by rw [endEdge_frame]

/-- An edge and the release of its byte (R118 to R122, R94). -/
theorem BufferedLine.edge_runs {going : State → Bool} {s u : State} {raw : List Byte} {r : Byte} {rest : List Event}
    (goes : GoesInLine going s) (buffered : s.cfg.strat = .buf) (run : BufferedLine s raw u)
    (ahead : EdgesAhead raw u) (window : u.ph = .lAct) (ready : u.txbusy = false)
    (balance : 2 * u.snd.toNat + fmtCount u = u.cap.toNat) (scheduled : u.schedule = .edge r :: .linkDone :: rest) :
    ∃ v, Runs going 2 u v ∧ BufferedLine s raw v ∧ EdgesAhead raw v ∧ v.txbusy = false ∧ v.schedule = rest ∧
      v.cap.toNat = u.cap.toNat + 1 ∧ 2 * v.snd.toNat + fmtCount v = v.cap.toNat ∧
      v.ph = if v.cap.toNat = lineBytes v.cfg then .lPost else .lAct := by
  have strat : u.cfg.strat = .buf := by rw [run.cfg, buffered]
  have inside := run.inv.window window
  have cap : (u.cap + 1).toNat = u.cap.toNat + 1 := cursor_succ inside
  obtain ⟨m, work, next⟩ := (run.taking (.linkDone :: rest)).inv.edge_answers r window strat
  have act : m.ph = .lAct := work.keeps.1.trans window
  have capM : m.cap.toNat = u.cap.toNat + 1 := by rw [work.keeps.2.1]; exact cap
  have balanced : 2 * m.snd.toNat + fmtCount m = m.cap.toNat :=
    work.balanced ready (show u.snd.toNat < lineBytes u.cfg by omega) (by
      show 2 * u.snd.toNat + fmtCount u + 1 = (u.cap + 1).toNat
      omega)
  have phase := endEdge_ph act
  have inLine : m.endEdge.ph = .lAct ∨ captureOver m.endEdge := by
    rw [captureOver, phase]
    split
    case isTrue => exact .inr (.inl rfl)
    case isFalse => exact .inl rfl
  obtain ⟨run₁, ahead₁⟩ := run.event ahead buffered scheduled (by simp) next inLine
  have events : m.endEdge.schedule = .linkDone :: rest := by
    rw [endEdge_frame, work.frame]
    rfl
  have released : eventStep .linkDone (m.endEdge.taking rest) =
      .next { m.endEdge.taking rest with txbusy := false } := execLinkDone_eq _
  obtain ⟨run₂, ahead₂⟩ := run₁.event ahead₁ buffered events (by decide) released inLine
  refine ⟨_, Runs.trans (.one (run.goes goes) scheduled next) (.one (run₁.goes goes) events released), run₂, ahead₂, rfl,
    rfl, ?_, ?_, ?_⟩
  · show m.endEdge.cap.toNat = u.cap.toNat + 1
    rw [endEdge_cap, capM]
  · show 2 * m.endEdge.snd.toNat + m.endEdge.fmt.toNat = m.endEdge.cap.toNat
    rw [endEdge_snd, endEdge_fmt, endEdge_cap]
    exact balanced
  · show m.endEdge.ph = if m.endEdge.cap.toNat = lineBytes m.endEdge.cfg then .lPost else .lAct
    rw [endEdge_cap, endEdge_cfg, phase]

/-- The edges of the window, each with the release of its byte, to L_POST (R122). -/
theorem BufferedLine.window_runs {going : State → Bool} {s : State} {raw : List Byte} (goes : GoesInLine going s)
    (buffered : s.cfg.strat = .buf) (rest : List Event) :
    ∀ (edges : List Byte) (u : State), edges ≠ [] → BufferedLine s raw u → EdgesAhead raw u → u.ph = .lAct →
      u.txbusy = false → 2 * u.snd.toNat + fmtCount u = u.cap.toNat →
      u.cap.toNat + edges.length = lineBytes s.cfg →
      u.schedule = edges.flatMap (fun r => [Event.edge r, Event.linkDone]) ++ rest →
      ∃ n v, Runs going n u v ∧ BufferedLine s raw v ∧ v.ph = .lPost ∧ v.txbusy = false ∧
        2 * v.snd.toNat + fmtCount v = lineBytes s.cfg ∧ v.schedule = rest := by
  intro edges
  induction edges with
  | nil => exact fun _ empty => absurd rfl empty
  | cons r rs ih =>
    intro u _ run ahead window ready balance length scheduled
    rw [List.length_cons] at length
    obtain ⟨v, runs, run, ahead, ready, left, cap, balance, phase⟩ :=
      run.edge_runs goes buffered ahead window ready balance scheduled
    rw [run.cfg] at phase
    by_cases last : v.cap.toNat = lineBytes s.cfg
    · have none : rs = [] := List.length_eq_zero_iff.mp (by omega)
      rw [if_pos last] at phase
      rw [none] at left
      exact ⟨2, v, runs, run, phase, ready, balance.trans last, left⟩
    · have more : rs ≠ [] := fun none => last (by rw [none, List.length_nil] at length; omega)
      rw [if_neg last] at phase
      obtain ⟨n, t, later, ended⟩ := ih v more run ahead phase ready balance (by omega) left
      exact ⟨2 + n, t, runs.trans later, ended⟩

/-- A byte of the drain: format, send, release (R124, R125). -/
theorem BufferedLine.drain_byte_runs {going : State → Bool} {s u : State} {raw : List Byte} {rest : List Event}
    (goes : GoesInLine going s) (buffered : s.cfg.strat = .buf) (run : BufferedLine s raw u) (drain : u.ph = .lDrain)
    (ready : u.txbusy = false) (unformatted : u.fmt = false) (inside : u.snd.toNat < lineBytes u.cfg)
    (scheduled : u.schedule = .seq :: .seq :: .linkDone :: rest) :
    ∃ v, Runs going 3 u v ∧ BufferedLine s raw v ∧ v.ph = .lDrain ∧ v.txbusy = false ∧ v.fmt = false ∧
      v.snd.toNat = u.snd.toNat + 1 ∧ v.schedule = rest := by
  have full := (run.inv.drain (.inr drain)).1
  have captured : u.snd.toNat < u.cap.toNat := full ▸ inside
  obtain ⟨b, stored⟩ :=
    Option.isSome_iff_exists.mp (run.inv.captured (run.inv.buffered_of_more drain inside) _ captured)
  have format : eventStep .seq (u.taking (.seq :: .linkDone :: rest)) =
      .next ((u.taking (.seq :: .linkDone :: rest)).formatted (fmtBy u.hl b)) := by
    have unit : drainUnit (u.taking (.seq :: .linkDone :: rest)) = .format := by
      rw [drainUnit_eq]
      simp [more, inside, unformatted]
    rw [eventStep, seqStep_of_lDrain (by exact drain), drainStep, unit]
    exact exec_drainFormat_of_captured (s := u.taking (.seq :: .linkDone :: rest)) drain unformatted inside captured stored
  obtain ⟨run₁, ahead₁⟩ := run.event (edgesAhead_of_lDrain drain) buffered scheduled (by decide) format (.inr (.inr drain))
  have first : Runs going 1 u _ := .one (run.goes goes) scheduled format
  have snd : (u.snd + 1).toNat = u.snd.toNat + 1 := snd_succ inside
  generalize formats : (u.taking (.seq :: .linkDone :: rest)).formatted (fmtBy u.hl b) = m at run₁ ahead₁ first
  have waits : memRead m.lb m.snd.toNat = some (fmtBy u.hl b) := by
    rw [← formats]
    exact memRead_memWrite_self _ _ _
  have isFormatted : m.fmt = true := by rw [← formats]; rfl
  have drainM : m.ph = .lDrain := by rw [← formats]; exact drain
  have sndM : m.snd = u.snd := by rw [← formats]; rfl
  have insideM : m.snd.toNat < lineBytes m.cfg := by rw [← formats]; exact inside
  have capturedM : m.snd.toNat < m.cap.toNat := by rw [← formats]; exact captured
  have readyM : m.txbusy = false := by rw [← formats]; exact ready
  have eventsM : m.schedule = .seq :: .linkDone :: rest := by rw [← formats]; rfl
  have send : eventStep .seq (m.taking (.linkDone :: rest)) =
      .next ((m.taking (.linkDone :: rest)).sendNext (fmtBy u.hl b)) := by
    have unit : drainUnit (m.taking (.linkDone :: rest)) = .send := by
      rw [drainUnit_eq]
      simp [more, insideM, isFormatted, Machine.ready, readyM]
    rw [eventStep, seqStep_of_lDrain (by exact drainM), drainStep, unit]
    exact execDrainSend_of_captured (s := m.taking (.linkDone :: rest)) drainM isFormatted readyM insideM capturedM waits
  obtain ⟨run₂, ahead₂⟩ := run₁.event ahead₁ buffered eventsM (by decide) send (.inr (.inr drainM))
  have released : eventStep .linkDone (((m.taking (.linkDone :: rest)).sendNext (fmtBy u.hl b)).taking rest) =
      .next { ((m.taking (.linkDone :: rest)).sendNext (fmtBy u.hl b)).taking rest with txbusy := false } :=
    execLinkDone_eq _
  obtain ⟨run₃, _⟩ := run₂.event ahead₂ buffered rfl (by decide) released (.inr (.inr drainM))
  have second : Runs going 1 m _ := .one (run₁.goes goes) eventsM send
  have third : Runs going 1 _ _ := .one (run₂.goes goes) rfl released
  exact ⟨_, (first.trans second).trans third, run₃, drainM, rfl, rfl, by rw [← snd, ← sndM]; rfl, rfl⟩

/-- The half of the line that the window left is drained (R124 to R126). -/
theorem BufferedLine.drain_runs {going : State → Bool} {s : State} {raw : List Byte} (goes : GoesInLine going s)
    (buffered : s.cfg.strat = .buf) (rest : List Event) :
    ∀ (k : Nat) (u : State), BufferedLine s raw u → u.ph = .lDrain → u.txbusy = false → u.fmt = false →
      u.snd.toNat + k = lineBytes s.cfg →
      u.schedule = (List.replicate k [Event.seq, Event.seq, Event.linkDone]).flatten ++ rest →
      ∃ n v, Runs going n u v ∧ BufferedLine s raw v ∧ v.ph = .lDrain ∧ v.txbusy = false ∧
        v.snd.toNat = lineBytes s.cfg ∧ v.schedule = rest := by
  intro k
  induction k with
  | zero => exact fun u run drain ready _ sent scheduled => ⟨0, u, .refl u, run, drain, ready, sent, scheduled⟩
  | succ k ih =>
    intro u run drain ready unformatted left scheduled
    rw [List.replicate_succ, List.flatten_cons, List.append_assoc] at scheduled
    obtain ⟨v, runs, run, drain, ready, unformatted, snd, later⟩ :=
      run.drain_byte_runs goes buffered drain ready unformatted (by rw [run.cfg]; omega) scheduled
    obtain ⟨n, t, more, ended⟩ := ih v run drain ready unformatted (by omega) later
    exact ⟨3 + n, t, runs.trans more, ended⟩

/-- The schedule of a buffered line in its parts: the edges, the padding, the drain, LINE_END. -/
theorem bufferedWindow_append (c : Cfg) (raw : List Byte) (rest : List Event) :
    bufferedWindow c raw ++ rest = raw.flatMap (fun r => [Event.edge r, Event.linkDone]) ++ .padDone ::
      ((List.replicate c.width.toNat [Event.seq, Event.seq, Event.linkDone]).flatten ++ .seq :: rest) := by
  simp [bufferedWindow]

/-- The padding after the window returns (R123). -/
theorem padDone_of_lPost {u : State} (rest : List Event) (post : u.ph = .lPost) :
    eventStep .padDone (u.taking rest) = .next ((u.taking rest).setPhase .lDrain) :=
  (padStep_of_lPost (s := u.taking rest) post).trans (if_pos post)

theorem rawEdges_append (first later : List Event) : rawEdges (first ++ later) = rawEdges first ++ rawEdges later := by
  induction first with
  | nil => rfl
  | cons e es ih =>
    cases e with
    | edge r => exact congrArg (r :: ·) ih
    | seq | padDone | linkDone | reqFrame | reqDebug | tick | reset | config => exact ih

theorem rawEdges_window (raw : List Byte) :
    rawEdges (raw.flatMap (fun r => [Event.edge r, Event.linkDone])) = raw := by
  induction raw with
  | nil => rfl
  | cons r rs ih => exact congrArg (r :: ·) ih

/-- The edges of a buffered line come before all others. -/
theorem rawEdges_bufferedWindow (c : Cfg) (raw : List Byte) (rest : List Event) :
    ∃ later, rawEdges (bufferedWindow c raw ++ rest) = raw ++ later := by
  rw [bufferedWindow_append, rawEdges_append, rawEdges_window]
  exact ⟨_, rfl⟩

/-- A buffered line from its active window to LINE_END: LB holds the line, and outside it what it held (R115, R132). -/
theorem bufferedWindow_runs {going : State → Bool} {s : State} {raw : List Byte} {rest : List Event}
    (goes : GoesInLine going s) (window : s.ph = .lAct) (frame : s.txn = .frame) (buffered : s.cfg.strat = .buf)
    (pixels : s.cfg.width ≠ 0) (ready : s.txbusy = false) (cap : s.cap = 0) (snd : s.snd = 0)
    (unformatted : s.fmt = false) (high : s.hl = .high) (length : raw.length = lineBytes s.cfg)
    (scheduled : s.schedule = bufferedWindow s.cfg raw ++ rest) :
    ∃ n v, Runs going n s (v.taking rest).endLine ∧ LineSent s v (formatLine .high raw) ∧
      (∀ i b, (formatLine .high raw)[i]? = some b → memRead v.lb i = some b) ∧
      ∀ i, lineBytes s.cfg ≤ i → memRead v.lb i = memRead s.lb i := by
  obtain ⟨head, ahead⟩ := bufferedLine_head window frame pixels cap snd unformatted high
  obtain ⟨later, edges⟩ := rawEdges_bufferedWindow s.cfg raw rest
  rw [← scheduled] at edges
  have firstEdges : (formatLine .high (rawEdges s.schedule)).take (lineBytes s.cfg) = formatLine .high raw := by
    rw [formatLine_take, edges, List.take_left' length]
  have positive : 0 < s.cfg.width.toNat := BitVec.toNat_pos_of_ne_zero pixels
  have twice : lineBytes s.cfg = 2 * s.cfg.width.toNat := rfl
  have count : fmtCount s = 0 := fmtCount_of_false unformatted
  have capZero : s.cap.toNat = 0 := by rw [cap]; rfl
  have sndZero : s.snd.toNat = 0 := by rw [snd]; rfl
  have some : raw ≠ [] := fun none => by rw [none, List.length_nil] at length; omega
  rw [bufferedWindow_append] at scheduled
  obtain ⟨n₁, u, runs₁, run, post, ready, balance, left⟩ := BufferedLine.window_runs goes buffered _ raw s some head ahead
    window ready (by omega) (by omega) scheduled
  have padDone := padDone_of_lPost
    ((List.replicate s.cfg.width.toNat [Event.seq, Event.seq, Event.linkDone]).flatten ++ .seq :: rest) post
  obtain ⟨run₂, _⟩ := run.event (fun act => absurd (post.symm.trans act) (by decide)) buffered left (by decide) padDone
    (.inr (.inr rfl))
  have pad := Runs.one (run.goes goes) left padDone
  have none : u.fmt = false := by
    cases formatted : u.fmt with
    | false => rfl
    | true =>
      rw [fmtCount_of_true formatted] at balance
      omega
  rw [fmtCount_of_false none] at balance
  obtain ⟨n₃, v, runs₃, run, drain, ready, sent, left⟩ := BufferedLine.drain_runs goes buffered _ s.cfg.width.toNat _ run₂ rfl
    ready none (show u.snd.toNat + s.cfg.width.toNat = lineBytes s.cfg by omega) rfl
  have whole : v.snd.toNat = lineBytes v.cfg := by rw [run.cfg, sent]
  have ends : Runs going 1 v (v.taking rest).endLine := .lineEnd (run.goes goes) left drain whole
  refine ⟨_, v, ((runs₁.trans pad).trans runs₃).trans ends,
    ⟨drain, whole, run.txn, run.cfg, run.row, run.fcnt, ?_, ready⟩, fun i b byte => ?_, fun i outside => ?_⟩
  · rw [run.content.wire, sent, firstEdges]
  · obtain ⟨full, _⟩ := run.inv.drain (.inr drain)
    have inside : i < lineBytes s.cfg := by
      have below := (List.getElem?_eq_some_iff.mp byte).1
      rwa [formatLine_length, length] at below
    rw [run.cfg] at full
    rw [run.content.stored i (full ▸ inside), if_pos (by omega), ← byte, ← firstEdges,
      List.getElem?_take_of_lt inside]
  · exact run.content.outside i (run.cfg.symm ▸ outside)

theorem endLine_ph (s : State) : s.endLine.ph = if s.row + 1 = s.cfg.height then .idle else .lPre := by
  rw [State.endLine]
  split
  case isTrue => rfl
  case isFalse => rfl

theorem goesInLine_runningLine (s : State) : GoesInLine (runningLine s.row) s := fun _ line frame row =>
  (runningLine_iff _ _).mpr ⟨line, frame, row⟩

/-- The line's own run stops at its end. -/
theorem runningLine_endLine {s v : State} (row : v.row = s.row) : runningLine s.row v.endLine = false :=
  Bool.eq_false_of_not_eq_true fun running =>
    row_succ_ne s.row ((congrArg (· + 1) row).symm.trans ((endLine_row v).symm.trans ((runningLine_iff _ _).mp running).2.2))

/-- Settles O37: the line runs to LINE_END, which its run does not pass. -/
theorem bufferedLineOverPromptLink : Obligations.BufferedLineOverPromptLink := by
  intro s raw window frame buffered pixels ready cap snd unformatted high length scheduled
  obtain ⟨n, v, runs, sent, holds, outside⟩ := bufferedWindow_runs (rest := []) (goesInLine_runningLine s) window frame
    buffered pixels ready cap snd unformatted high length (by rw [List.append_nil]; exact scheduled)
  have next := runs.driveAll (runningLine_endLine sent.row)
  refine ⟨_, (exec_lineBuf_of_running (by rw [inLine, window]) frame buffered).trans next, ?_, ?_, ?_, ?_, ?_, ?_⟩
  · rw [endLine_row, taking_row, sent.row]
  · rw [endLine_frame]
    exact sent.wire
  · rw [endLine_ph, taking_row, taking_cfg, sent.row, sent.cfg]
  · rw [endLine_frame]
    rfl
  · rw [endLine_frame]
    exact holds
  · intro i above
    rw [endLine_frame]
    exact outside i (length.symm.trans_le above)

/-! ## The direct line -/

/-- Of the direct line that began in `s`, what no byte of it changes. -/
structure DirectLine (s u : State) : Prop where
  txn : u.txn = .frame
  cfg : u.cfg = s.cfg
  row : u.row = s.row
  fcnt : u.fcnt = s.fcnt
  lb : u.lb = s.lb

theorem DirectLine.goes {going : State → Bool} {s u : State} (goes : GoesInLine going s) (run : DirectLine s u)
    (line : inLine u = true) : going u = true :=
  goes u line run.txn run.row

/-- The edge, the send and the release of one byte (R128, R129, R94). -/
theorem DirectLine.byte_runs {going : State → Bool} {s u : State} {r : Byte} {rest : List Event}
    (goes : GoesInLine going s) (direct : s.cfg.strat = .dir) (run : DirectLine s u) (window : u.ph = .lAct)
    (ready : u.txbusy = false) (inside : u.snd.toNat < lineBytes s.cfg)
    (scheduled : u.schedule = directByte r ++ rest) :
    ∃ v, Runs going 3 u v ∧ DirectLine s v ∧ v.txbusy = false ∧ v.schedule = rest ∧ v.hl = toggle u.hl ∧
      v.snd.toNat = u.snd.toNat + 1 ∧ v.wire = u.wire ++ [fmtBy u.hl r] ∧
      v.ph = if v.snd.toNat = lineBytes s.cfg then .lPost else .lAct := by
  have strat : u.cfg.strat = .dir := by rw [run.cfg, direct]
  have snd : (u.snd + 1).toNat = u.snd.toNat + 1 := cursor_succ inside
  have read : Runs going 1 u _ := .one (run.goes goes (by rw [inLine, window])) scheduled
    ((edgeStep_of_direct (s := u.taking _) window strat).trans (execDirRead_of_window r (s := u.taking _) window strat))
  have reading : DirectLine s { u.taking (.seq :: .linkDone :: rest) with
      tmp := fmtBy u.hl r, hl := toggle u.hl, cap := u.cap + 1, ph := .lTx } :=
    ⟨run.txn, run.cfg, run.row, run.fcnt, run.lb⟩
  have send : Runs going 1 _ _ := .one (reading.goes goes rfl) rfl (execDirSend_of_ready (s := State.taking _ _) rfl ready)
  have sending : DirectLine s ((State.taking { u.taking (.seq :: .linkDone :: rest) with
      tmp := fmtBy u.hl r, hl := toggle u.hl, cap := u.cap + 1, ph := .lTx } (.linkDone :: rest)).handOver
        (fmtBy u.hl r)).sentDirect :=
    ⟨run.txn, run.cfg, run.row, run.fcnt, run.lb⟩
  have line : inLine ((State.taking { u.taking (.seq :: .linkDone :: rest) with
      tmp := fmtBy u.hl r, hl := toggle u.hl, cap := u.cap + 1, ph := .lTx } (.linkDone :: rest)).handOver
        (fmtBy u.hl r)).sentDirect = true := by
    rw [inLine, sentDirect_ph]
    by_cases last : (u.snd + 1).toNat = lineBytes u.cfg
    · rw [if_pos (by exact last)]
    · rw [if_neg (by exact last)]
  refine ⟨_, (read.trans send).trans (.linkDone (sending.goes goes line) rfl),
    ⟨run.txn, run.cfg, run.row, run.fcnt, run.lb⟩, rfl, rfl, rfl, snd, rfl, ?_⟩
  rw [← run.cfg]
  rfl

/-- The bytes of the window, to L_POST (R129). -/
theorem DirectLine.window_runs {going : State → Bool} {s : State} (goes : GoesInLine going s)
    (direct : s.cfg.strat = .dir) (rest : List Event) :
    ∀ (raw : List Byte) (u : State), raw ≠ [] → DirectLine s u → u.ph = .lAct → u.txbusy = false →
      u.snd.toNat + raw.length = lineBytes s.cfg → u.schedule = raw.flatMap directByte ++ rest →
      ∃ n v, Runs going n u v ∧ DirectLine s v ∧ v.ph = .lPost ∧ v.txbusy = false ∧
        v.snd.toNat = lineBytes s.cfg ∧ v.wire = u.wire ++ formatLine u.hl raw ∧ v.schedule = rest := by
  intro raw
  induction raw with
  | nil => exact fun _ empty => absurd rfl empty
  | cons r rs ih =>
    intro u _ run window ready length scheduled
    rw [List.length_cons] at length
    rw [List.flatMap_cons, List.append_assoc] at scheduled
    obtain ⟨v, runs, run, ready, left, hl, snd, wire, phase⟩ :=
      run.byte_runs goes direct window ready (by omega) scheduled
    by_cases last : v.snd.toNat = lineBytes s.cfg
    · have none : rs = [] := List.length_eq_zero_iff.mp (by omega)
      rw [if_pos last] at phase
      subst none
      exact ⟨3, v, runs, run, phase, ready, last, wire, left⟩
    · have more : rs ≠ [] := fun none => last (by rw [none, List.length_nil] at length; omega)
      rw [if_neg last] at phase
      obtain ⟨n, t, later, run, post, ready, sent, bytes, ended⟩ := ih v more run phase ready (by omega) left
      refine ⟨3 + n, t, runs.trans later, run, post, ready, sent, ?_, ended⟩
      rw [bytes, wire, hl, List.append_assoc]
      rfl

/-- A direct line from its active window to LINE_END (R115, R130, R132). -/
theorem directWindow_runs {going : State → Bool} {s : State} {raw : List Byte} {rest : List Event}
    (goes : GoesInLine going s) (window : s.ph = .lAct) (frame : s.txn = .frame) (direct : s.cfg.strat = .dir)
    (pixels : s.cfg.width ≠ 0) (ready : s.txbusy = false) (snd : s.snd = 0) (high : s.hl = .high)
    (length : raw.length = lineBytes s.cfg) (scheduled : s.schedule = directWindow raw ++ rest) :
    ∃ n v, Runs going n s (v.taking rest).endLine ∧ LineSent s v (formatLine .high raw) ∧ v.lb = s.lb := by
  have positive : 0 < s.cfg.width.toNat := BitVec.toNat_pos_of_ne_zero pixels
  have twice : lineBytes s.cfg = 2 * s.cfg.width.toNat := rfl
  have sndZero : s.snd.toNat = 0 := by rw [snd]; rfl
  have some : raw ≠ [] := fun none => by rw [none, List.length_nil] at length; omega
  rw [directWindow, List.append_assoc] at scheduled
  obtain ⟨n, u, runs, run, post, ready, sent, wire, left⟩ := DirectLine.window_runs goes direct _ raw s some
    ⟨frame, rfl, rfl, rfl, rfl⟩ window ready (by omega) scheduled
  have pad : Runs going 1 u ((u.taking (.seq :: rest)).setPhase .lDrain) :=
    .one (run.goes goes (by rw [inLine, post])) left (padDone_of_lPost _ post)
  have whole : u.snd.toNat = lineBytes u.cfg := by rw [run.cfg, sent]
  have ends := Runs.lineEnd (going := going) (u := (u.taking (.seq :: rest)).setPhase .lDrain) (rest := rest)
    (goes _ rfl run.txn run.row) rfl rfl whole
  rw [high] at wire
  exact ⟨_, _, (runs.trans pad).trans ends, ⟨rfl, whole, run.txn, run.cfg, run.row, run.fcnt, wire, ready⟩, run.lb⟩

/-- LINE_DIR runs the line at hand (R130). -/
theorem exec_lineDir_of_running {s : State} (line : inLine s = true) (frame : s.txn = .frame)
    (direct : s.cfg.strat = .dir) : exec .lineDir s = driveAll (runningLine s.row) s :=
  if_pos ⟨(runningLine_iff _ _).mpr ⟨line, frame, rfl⟩, direct⟩

/-- Settles O38: the line runs to LINE_END, which its run does not pass. -/
theorem directLineOnTheWire : Obligations.DirectLineOnTheWire := by
  intro s raw window frame direct pixels ready _ snd high length scheduled
  obtain ⟨n, v, runs, sent, lb⟩ := directWindow_runs (rest := []) (goesInLine_runningLine s) window frame direct pixels
    ready snd high length (by rw [List.append_nil]; exact scheduled)
  have next := runs.driveAll (runningLine_endLine sent.row)
  refine ⟨_, (exec_lineDir_of_running (by rw [inLine, window]) frame direct).trans next, ?_, ?_, ?_, ?_, ?_⟩
  · rw [endLine_row, taking_row, sent.row]
  · rw [endLine_frame]
    exact sent.wire
  · rw [endLine_ph, taking_row, taking_cfg, sent.row, sent.cfg]
  · rw [endLine_frame]
    exact lb
  · rw [endLine_frame]
    rfl

end Sys2Proof.Machine
end

section
/-! A whole frame over a prompt link: the frame-start command, every line from its padding on, the return to IDLE (R149,
R150, R151, R155). -/

namespace Sys2Proof.Machine

open Sys2Proof

/-! ## A line from its head -/

/-- A line of the frame is about to begin, with the link ready (R116, R32). -/
structure LineHead (u : State) : Prop where
  pre : u.ph = .lPre
  txn : u.txn = .frame
  cap : u.cap = 0
  snd : u.snd = 0
  unformatted : u.fmt = false
  high : u.hl = .high
  ready : u.txbusy = false

theorem runningFrame_iff (u : State) : runningFrame u = true ↔ u.txn = .frame := by
  rw [runningFrame, decide_eq_true_iff]

theorem goesInLine_runningFrame (s : State) : GoesInLine runningFrame s := fun u _ frame _ => (runningFrame_iff u).mpr frame

/-- The padding before the window returns (R117). -/
theorem LineHead.padDone {u : State} {rest : List Event} (head : LineHead u) (scheduled : u.schedule = .padDone :: rest) :
    Runs runningFrame 1 u ((u.taking rest).setPhase (if 0 < u.cfg.width.toNat then .lAct else .lPost)) :=
  .one ((runningFrame_iff u).mpr head.txn) scheduled
    ((padStep_of_lPre (s := u.taking rest) head.pre).trans (if_pos head.pre))

theorem LineHead.padDone_window {u : State} {rest : List Event} (head : LineHead u) (pixels : u.cfg.width ≠ 0)
    (scheduled : u.schedule = .padDone :: rest) : Runs runningFrame 1 u ((u.taking rest).setPhase .lAct) := by
  have runs := head.padDone scheduled
  rwa [if_pos (BitVec.toNat_pos_of_ne_zero pixels)] at runs

/-- A line without pixels: both paddings, then LINE_END (R117, R123, R126). -/
theorem LineHead.empty_runs {u : State} {rest : List Event} (head : LineHead u) (empty : u.cfg.width = 0)
    (scheduled : u.schedule = .padDone :: .padDone :: .seq :: rest) :
    ∃ n v, Runs runningFrame n u (v.taking rest).endLine ∧ LineSent u v [] ∧ v.lb = u.lb := by
  have first := head.padDone scheduled
  rw [if_neg (by simp [empty])] at first
  have goes (t : State) (frame : t.txn = .frame) : runningFrame t = true := (runningFrame_iff t).mpr frame
  have second := Runs.one (goes ((u.taking (.padDone :: .seq :: rest)).setPhase .lPost) head.txn) rfl
    (padDone_of_lPost (.seq :: rest) rfl)
  have whole : u.snd.toNat = lineBytes u.cfg := by rw [head.snd, lineBytes, empty]; rfl
  have third := Runs.lineEnd (going := runningFrame) (rest := rest)
    (u := ((((u.taking (.padDone :: .seq :: rest)).setPhase .lPost).taking (.seq :: rest)).setPhase .lDrain))
    (goes _ head.txn) rfl rfl whole
  exact ⟨_, _, (first.trans second).trans third,
    ⟨rfl, whole, head.txn, rfl, rfl, rfl, (List.append_nil _).symm, head.ready⟩, rfl⟩

/-- A buffered line from its head to LINE_END. -/
theorem LineHead.buffered_runs {u : State} {raw : List Byte} {rest : List Event} (head : LineHead u)
    (buffered : u.cfg.strat = .buf) (length : raw.length = lineBytes u.cfg)
    (scheduled : u.schedule = bufferedLine u.cfg raw ++ rest) :
    ∃ n v, Runs runningFrame n u (v.taking rest).endLine ∧ LineSent u v (formatLine .high raw) ∧
      ∀ i, lineBytes u.cfg ≤ i → memRead v.lb i = memRead u.lb i := by
  by_cases empty : u.cfg.width = 0
  · have none : raw = [] := List.length_eq_zero_iff.mp (by rw [length, lineBytes, empty]; rfl)
    subst none
    rw [bufferedLine, bufferedWindow, empty] at scheduled
    obtain ⟨n, v, runs, sent, lb⟩ := head.empty_runs empty scheduled
    exact ⟨n, v, runs, sent, fun _ _ => by rw [lb]⟩
  · have pad := head.padDone_window empty scheduled
    obtain ⟨n, v, runs, sent, _, outside⟩ := bufferedWindow_runs (raw := raw) (rest := rest)
      (goesInLine_runningFrame ((u.taking (bufferedWindow u.cfg raw ++ rest)).setPhase .lAct)) rfl head.txn buffered empty
      head.ready head.cap head.snd head.unformatted head.high length rfl
    exact ⟨_, v, pad.trans runs, { sent with }, outside⟩

/-- A direct line from its head to LINE_END. -/
theorem LineHead.direct_runs {u : State} {raw : List Byte} {rest : List Event} (head : LineHead u)
    (direct : u.cfg.strat = .dir) (length : raw.length = lineBytes u.cfg)
    (scheduled : u.schedule = directLine raw ++ rest) :
    ∃ n v, Runs runningFrame n u (v.taking rest).endLine ∧ LineSent u v (formatLine .high raw) ∧ v.lb = u.lb := by
  by_cases empty : u.cfg.width = 0
  · have none : raw = [] := List.length_eq_zero_iff.mp (by rw [length, lineBytes, empty]; rfl)
    subst none
    exact head.empty_runs empty scheduled
  · have pad := head.padDone_window empty scheduled
    obtain ⟨n, v, runs, sent, lb⟩ := directWindow_runs (raw := raw) (rest := rest)
      (goesInLine_runningFrame ((u.taking (directWindow raw ++ rest)).setPhase .lAct)) rfl head.txn direct empty
      head.ready head.snd head.high length rfl
    exact ⟨_, v, pad.trans runs, { sent with }, lb⟩

/-! ## All lines -/

/-- Under `c` every line whose events are `line raw` runs from its head to LINE_END, and LB stays related. -/
def LineRuns (c : Cfg) (line : List Byte → List Event) (keepsLb : Memory → Memory → Prop) : Prop :=
  ∀ (u : State) (raw : List Byte) (rest : List Event), LineHead u → u.cfg = c → raw.length = lineBytes c →
    u.schedule = line raw ++ rest →
    ∃ n v, Runs runningFrame n u (v.taking rest).endLine ∧ LineSent u v (formatLine .high raw) ∧ keepsLb u.lb v.lb

/-- The lines that are left run one after the other, and the last one ends the frame (R126, R151). -/
theorem lines_run {c : Cfg} {line : List Byte → List Event} {keepsLb : Memory → Memory → Prop}
    (trans : ∀ a b d, keepsLb a b → keepsLb b d → keepsLb a d) (lineRuns : LineRuns c line keepsLb) :
    ∀ (raws : List (List Byte)) (u : State), raws ≠ [] → LineHead u → u.cfg = c →
      u.row.toNat + raws.length = c.height.toNat → (∀ raw ∈ raws, raw.length = lineBytes c) →
      u.schedule = raws.flatMap line →
      ∃ n t, Runs runningFrame n u t ∧ t.ph = .idle ∧ t.txn = .none ∧ t.fcnt = u.fcnt ∧
        t.wire = u.wire ++ raws.flatMap (formatLine .high) ∧ keepsLb u.lb t.lb := by
  intro raws
  induction raws with
  | nil => exact fun _ empty => absurd rfl empty
  | cons raw raws ih =>
    intro u _ head cfg rows lengths scheduled
    obtain ⟨n, v, runs, sent, lb⟩ := lineRuns u raw (raws.flatMap line) head cfg (lengths raw List.mem_cons_self) scheduled
    have row : (v.row + 1).toNat = u.row.toNat + 1 := by
      rw [sent.row]
      exact row_succ (c := c) (by rw [← rows, List.length_cons]; omega)
    rw [List.length_cons] at rows
    by_cases last : raws = []
    · have ends : (v.taking (raws.flatMap line)).row + 1 = (v.taking (raws.flatMap line)).cfg.height := by
        refine BitVec.eq_of_toNat_eq ?_
        rw [taking_row, taking_cfg, row, sent.cfg, cfg, ← rows, last]
        rfl
      rw [endLine_last ends] at runs
      have bytes : (raw :: raws).flatMap (formatLine .high) = formatLine .high raw := by
        rw [last, List.flatMap_cons, List.flatMap_nil, List.append_nil]
      exact ⟨n, _, runs, rfl, rfl, sent.fcnt, bytes ▸ sent.wire, lb⟩
    · have some : 0 < raws.length := List.length_pos_iff.mpr last
      have goesOn : (v.taking (raws.flatMap line)).row + 1 ≠ (v.taking (raws.flatMap line)).cfg.height := fun equal => by
        have heights := congrArg BitVec.toNat equal
        rw [taking_row, taking_cfg, row, sent.cfg, cfg] at heights
        omega
      rw [endLine_next goesOn] at runs
      obtain ⟨k, t, later, idle, txn, fcnt, wire, kept⟩ := ih
        ((v.taking (raws.flatMap line)).setRow (v.row + 1)).startLine last
        ⟨rfl, sent.txn, rfl, rfl, rfl, rfl, sent.ready⟩ (sent.cfg.trans cfg)
        (by rw [startLine_row, setRow_row, row]; omega) (fun raw listed => lengths raw (List.mem_cons_of_mem _ listed)) rfl
      refine ⟨n + k, t, runs.trans later, idle, txn, fcnt.trans sent.fcnt, ?_, trans _ _ _ lb kept⟩
      rw [wire, List.flatMap_cons, ← List.append_assoc, ← sent.wire]
      rfl

/-! ## The frame -/

/-- FRAME at an idle block runs the frame that it accepts (R149). -/
theorem exec_frame_of_idle {s : State} (idle : s.ph = .idle) : exec .frame s = driveAll runningFrame s.acceptFrame :=
  if_pos idle

theorem runningFrame_of_none {t : State} (none : t.txn = .none) : runningFrame t = false :=
  decide_eq_false fun frame => absurd (none.symm.trans frame) (by decide)

/-- The command, then all lines, under either strategy. -/
theorem frame_runs {s : State} {raws : List (List Byte)} {line : List Byte → List Event}
    {keepsLb : Memory → Memory → Prop} (refl : ∀ a, keepsLb a a) (trans : ∀ a b d, keepsLb a b → keepsLb b d → keepsLb a d)
    (lineRuns : LineRuns s.cfg line keepsLb) (idle : s.ph = .idle) (ready : s.txbusy = false)
    (rows : raws.length = s.cfg.height.toNat) (lengths : ∀ raw ∈ raws, raw.length = lineBytes s.cfg)
    (scheduled : s.schedule = commandEvents 7 ++ raws.flatMap line) :
    ∃ t, exec .frame s = .next t ∧ t.ph = .idle ∧ t.txn = .none ∧ t.fcnt = s.fcnt + 1 ∧
      t.wire = s.wire ++ (frameCommand s.cfg ++ raws.flatMap (formatLine .high)) ∧ keepsLb s.lb t.lb := by
  obtain ⟨v, n, same, left, wire, command⟩ := command_runs_from_head (s := s.acceptFrame) (.inl rfl) rfl
    (fun u _ frame => (runningFrame_iff u).mpr frame) (.head ⟨rfl, rfl, rfl, rfl, rfl, rfl, rfl⟩ rfl rfl rfl) ready rfl
    scheduled
  have lb : v.lb = s.lb := same.lb
  have cfg : v.cfg = s.cfg := same.cfg
  have fcnt : v.fcnt = s.fcnt + 1 := same.fcnt
  have header : v.wire ++ [v.cks] = s.wire ++ frameCommand s.cfg := wire
  rw [endCommand_of_frame (s := v.handOver v.cks) same.txn] at command
  rw [exec_frame_of_idle idle]
  by_cases empty : s.cfg.height = 0
  · have none : raws = [] := List.length_eq_zero_iff.mp (by rw [rows, empty]; rfl)
    rw [endHeader_empty (s := v.handOver v.cks) (by rw [handOver_cfg, cfg, empty])] at command
    refine ⟨_, command.driveAll (runningFrame_of_none rfl), rfl, rfl, fcnt, ?_, lb ▸ refl v.lb⟩
    rw [none, List.flatMap_nil, List.append_nil]
    exact header
  · have some : raws ≠ [] := fun none => empty (BitVec.eq_of_toNat_eq (by rw [← rows, none]; rfl))
    rw [endHeader_lines (s := v.handOver v.cks) (by rw [handOver_cfg, cfg]; exact empty)] at command
    have release := Runs.linkDone (going := runningFrame) (u := ((v.handOver v.cks).setRow 0).startLine)
      ((runningFrame_iff _).mpr same.txn) left
    obtain ⟨k, t, lines, ended, txn, counted, pixels, kept⟩ := lines_run trans lineRuns raws
      { ((v.handOver v.cks).setRow 0).startLine.taking (raws.flatMap line) with txbusy := false } some
      ⟨rfl, same.txn, rfl, rfl, rfl, rfl, rfl⟩ cfg ((Nat.zero_add _).trans rows) lengths rfl
    refine ⟨t, ((command.trans release).trans lines).driveAll (runningFrame_of_none txn), ended, txn,
      counted.trans fcnt, ?_, lb ▸ kept⟩
    rw [pixels, ← List.append_assoc, ← header]
    rfl

/-- Settles O47: a direct line leaves LB, a buffered one leaves it outside the line. -/
theorem frameEndToEnd : Obligations.FrameEndToEnd := by
  intro s raws idle ready rows lengths
  refine ⟨fun direct scheduled => ?_, fun buffered scheduled => ?_⟩
  · have lineRuns : LineRuns s.cfg directLine (fun a b => b = a) := fun u raw rest head cfg length events =>
      head.direct_runs (by rw [cfg, direct]) (by rw [cfg, length]) events
    obtain ⟨t, next, ended, txn, fcnt, wire, lb⟩ := frame_runs (keepsLb := fun a b => b = a) (fun _ => rfl)
      (fun _ _ _ first later => later.trans first) lineRuns idle ready rows lengths scheduled
    exact ⟨t, next, ended, txn, fcnt, lb, wire⟩
  · have lineRuns : LineRuns s.cfg (bufferedLine s.cfg)
        (fun a b => ∀ i, lineBytes s.cfg ≤ i → memRead b i = memRead a i) := fun u raw rest head cfg length events => by
      rw [← cfg] at length events ⊢
      exact head.buffered_runs (by rw [cfg, buffered]) length events
    exact frame_runs (fun _ _ _ => rfl) (fun _ _ _ first later i outside => (later i outside).trans (first i outside))
      lineRuns idle ready rows lengths scheduled

end Sys2Proof.Machine
end

section
/-! The composite operations end their sequence, or leave SEQ waiting with no event left (R97, R171). -/

namespace Sys2Proof.Machine

open Sys2Proof

/-! ## Steps of SEQ with nothing scheduled -/

/-- The steps that the drain's selector can choose one after the other, by `more`, FMT and TXBUSY, before the hold: a
format, a send, and a format or LINE_END (R75). -/
def drainStepsLeft : Bool → Bool → Bool → Nat
  | true, true, busy => if busy then 0 else 2
  | true, false, busy => if busy then 1 else 3
  | false, _, _ => 1

/-- A bound on the steps that SEQ can take in its transaction with nothing scheduled, before it waits for the link that it
has just made busy, or for the sensor. -/
def stepsLeft (s : State) : Nat :=
  match s.ph with
  | .cmd => if s.txbusy then 0 else 1
  | .lTx => if s.txbusy then 0 else 1
  | .lDrain => drainStepsLeft (more s) s.fmt s.txbusy
  | .idle => 0
  | .lPre => 0
  | .lAct => 0
  | .lPost => 0

theorem drainStepsLeft_le : ∀ m f b, drainStepsLeft m f b ≤ 3 := by decide

theorem stepsLeft_le (s : State) : stepsLeft s ≤ 3 := by
  rw [stepsLeft]
  split
  case h_1 | h_2 => split <;> decide
  case h_3 => exact drainStepsLeft_le _ _ _
  all_goals decide

theorem stepsLeft_of_lDrain {s : State} (drain : s.ph = .lDrain) :
    stepsLeft s = drainStepsLeft (more s) s.fmt s.txbusy := by
  rw [stepsLeft, drain]

/-- SEQ waits at the end of a transaction, and for the sensor at the head of a line. -/
theorem stepsLeft_of_end {s : State} (ended : s.ph = .idle ∨ s.ph = .lPre) : stepsLeft s = 0 := by
  rcases ended with phase | phase <;> rw [stepsLeft, phase]

theorem endCommand_ph (s : State) : s.endCommand.ph = .idle ∨ s.endCommand.ph = .lPre := by
  rw [State.endCommand]
  split
  case h_1 => exact .inl rfl
  case h_2 =>
    rw [endHeader_ph]
    split
    case isTrue => exact .inl rfl
    case isFalse => exact .inr rfl
  case h_3 => exact .inl rfl

theorem endLine_ph_cases (s : State) : s.endLine.ph = .idle ∨ s.endLine.ph = .lPre := by
  rw [endLine_ph]
  split
  case isTrue => exact .inl rfl
  case isFalse => exact .inr rfl

/-- After a command byte SEQ waits for the link, or the command has ended. -/
theorem stepsLeft_emitByte {s : State} (b : Byte) (command : s.ph = .cmd) : stepsLeft (s.emitByte b) = 0 := by
  have busy : (s.emitByte b).txbusy = true := by rw [emitByte_frame]
  have phase : (s.emitByte b).ph = .cmd ∨ (s.emitByte b).ph = .idle ∨ (s.emitByte b).ph = .lPre := by
    obtain ⟨u, rfl, emits⟩ := emitByte_eq s b
    rw [emits]
    split
    case isTrue => exact .inr (endCommand_ph _)
    case isFalse => exact .inl command
  rcases phase with inCommand | ended
  · rw [stepsLeft, inCommand]
    exact if_pos busy
  · exact stepsLeft_of_end ended

theorem stepsLeft_sentDirect (s : State) : stepsLeft s.sentDirect = 0 := by
  by_cases last : (s.snd + 1).toNat = lineBytes s.cfg
  · rw [sentDirect_of_last last]
    rfl
  · rw [sentDirect_of_more last]
    rfl

/-- An enabled step of the drain brings SEQ closer to its hold or to the end of the line (R75). -/
theorem LineInv.drain_decreases {s t : State} (inv : LineInv s) (drain : s.ph = .lDrain)
    (enabled : drainUnit s ≠ .hold) (next : drainStep s = .next t) : stepsLeft t < stepsLeft s := by
  obtain ⟨full, sent⟩ := inv.drain (.inr drain)
  rw [drainUnit_eq] at enabled
  rw [drainStep, drainUnit_eq] at next
  have here := stepsLeft_of_lDrain drain
  cases isMore : more s with
  | false =>
    have whole : s.snd.toNat = lineBytes s.cfg := by
      have notLess := of_decide_eq_false isMore
      omega
    simp only [isMore, Bool.false_eq_true, if_false] at next
    rw [execLineEnd_of_sent drain whole] at next
    cases next
    rw [stepsLeft_of_end (endLine_ph_cases s), here, isMore]
    exact Nat.zero_lt_one
  | true =>
    have inside : s.snd.toNat < lineBytes s.cfg := of_decide_eq_true isMore
    have captured : s.snd.toNat < s.cap.toNat := full ▸ inside
    obtain ⟨b, stored⟩ :=
      Option.isSome_iff_exists.mp (inv.captured (inv.buffered_of_more drain inside) _ captured)
    cases formatted : s.fmt with
    | false =>
      simp only [isMore, formatted, Bool.false_eq_true, if_false, if_true] at next
      rw [show execDrainFormat s = _ from exec_drainFormat_of_captured drain formatted inside captured stored] at next
      cases next
      have after : stepsLeft (s.formatted (fmtBy s.hl b)) = drainStepsLeft (more s) true s.txbusy :=
        stepsLeft_of_lDrain (s := s.formatted _) drain
      rw [after, here, isMore, formatted]
      cases s.txbusy <;> decide
    | true =>
      cases busy : s.txbusy with
      | true => simp [isMore, formatted, ready, busy] at enabled
      | false =>
        simp only [isMore, formatted, busy, ready, Bool.not_false, if_true] at next
        rw [execDrainSend_of_captured drain formatted busy inside captured stored] at next
        cases next
        have after : stepsLeft (s.sendNext b) = drainStepsLeft (more (s.sendNext b)) false true :=
          stepsLeft_of_lDrain (s := s.sendNext b) drain
        rw [after, here, isMore, formatted, busy]
        cases more (s.sendNext b) <;> decide

/-- An enabled step of SEQ in its transaction brings it closer to a wait. -/
theorem BlockInv.seq_decreases {s t : State} (inv : BlockInv s) (busy : s.ph ≠ .idle) (enabled : seqEnabled s = true)
    (next : seqStep s = .next t) : stepsLeft t < stepsLeft s := by
  cases phase : s.ph with
  | idle => exact absurd phase busy
  | cmd =>
    have idle : s.txbusy = false := by simpa [seqEnabled, phase, ready] using enabled
    obtain ⟨b, byte⟩ := inv.commandByte phase
    rw [seqStep_of_cmd phase, execCmdByte_of_ready phase idle byte] at next
    cases next
    rw [stepsLeft_emitByte b phase, stepsLeft, phase, idle]
    exact Nat.zero_lt_one
  | lTx =>
    have idle : s.txbusy = false := by simpa [seqEnabled, phase, ready] using enabled
    rw [seqStep_of_lTx phase, execDirSend_of_ready phase idle] at next
    cases next
    rw [stepsLeft_sentDirect, stepsLeft, phase, idle]
    exact Nat.zero_lt_one
  | lDrain =>
    have selected : drainUnit s ≠ .hold := by simpa [seqEnabled, phase] using enabled
    rw [seqStep_of_lDrain phase] at next
    exact (inv.lineInv (by rw [inLine, phase])).drain_decreases phase selected next
  | lPre => simp [seqEnabled, phase] at enabled
  | lAct => simp [seqEnabled, phase] at enabled
  | lPost => simp [seqEnabled, phase] at enabled

/-! ## Runs that settle -/

/-- The run has ended, or SEQ waits with no event left. -/
def Settled (going : State → Bool) (t : State) : Prop := going t = false ∨ (t.schedule = [] ∧ seqEnabled t = false)

/-- A run stops where it does not go on, or where there is no step to take. -/
theorem drive_of_stop {going : State → Bool} {s : State} (n : Nat)
    (stops : (going s && (!s.schedule.isEmpty || seqEnabled s)) = false) :
    drive going (n + 1) s = .next s ∧ Settled going s := by
  refine ⟨by rw [drive, if_neg (by simp [stops])], ?_⟩
  cases goes : going s with
  | false => exact .inl goes
  | true =>
    rw [goes, Bool.true_and, Bool.or_eq_false_iff] at stops
    exact .inr ⟨by simpa using stops.1, stops.2⟩

theorem drive_of_step {going : State → Bool} {s m : State} (n : Nat)
    (goes : (going s && (!s.schedule.isEmpty || seqEnabled s)) = true) (next : blockStep s = .next m) :
    drive going (n + 1) s = drive going n m := by
  rw [drive, if_pos goes, next, andThen_of_next]

section
variable {going : State → Bool} (inTransaction : ∀ u, BlockInv u → going u = true → u.ph ≠ .idle)
include inTransaction

/-- With nothing scheduled a run settles within the steps that SEQ has left. -/
theorem drive_settles_of_nil : ∀ (n : Nat) (s : State), BlockInv s → s.schedule = [] → stepsLeft s < n →
    ∃ t, drive going n s = .next t ∧ BlockInv t ∧ Settled going t := by
  intro n
  induction n with
  | zero => exact fun _ _ _ none => absurd none (Nat.not_lt_zero _)
  | succ n ih =>
    intro s inv nothing fuel
    cases goes : going s && (!s.schedule.isEmpty || seqEnabled s) with
    | false =>
      obtain ⟨next, settled⟩ := drive_of_stop n goes
      exact ⟨s, next, inv, settled⟩
    | true =>
      obtain ⟨goesOn, enabled⟩ : going s = true ∧ seqEnabled s = true := by simpa [nothing] using goes
      have busy := inTransaction s inv goesOn
      have quiet : BlockInv s.quiet := { inv with }
      obtain ⟨m, next⟩ := quiet.seq_answers busy
      have fewer : stepsLeft m < stepsLeft s := quiet.seq_decreases busy enabled next
      have step : blockStep s = .next m := (blockStep_nil nothing).trans next
      have left : m.schedule = [] := (seq_moves next).schedule.trans nothing
      rw [drive_of_step n goes step]
      exact ih m (blockStep_keeps_inv s m inv step) left (by omega)

/-- With events scheduled, each of them is taken first. -/
theorem drive_settles : ∀ (n : Nat) (s : State), BlockInv s → (∀ e ∈ s.schedule, isConfig e = false) →
    s.schedule.length + 3 < n → ∃ t, drive going n s = .next t ∧ BlockInv t ∧ Settled going t := by
  intro n
  induction n with
  | zero => exact fun _ _ _ none => absurd none (Nat.not_lt_zero _)
  | succ n ih =>
    intro s inv noConfig fuel
    cases scheduled : s.schedule with
    | nil =>
      have short := stepsLeft_le s
      exact drive_settles_of_nil inTransaction (n + 1) s inv scheduled (by omega)
    | cons e rest =>
      cases goes : going s && (!s.schedule.isEmpty || seqEnabled s) with
      | false =>
        obtain ⟨next, settled⟩ := drive_of_stop n goes
        exact ⟨s, next, inv, settled⟩
      | true =>
        have goesOn : going s = true := by simp at goes; exact goes.1
        obtain ⟨m, next⟩ := (inv.taking rest).answers (inTransaction s inv goesOn)
          (noConfig e (by rw [scheduled]; exact List.mem_cons_self))
        have step : blockStep s = .next m := (blockStep_cons scheduled).trans next
        have left : m.schedule = rest := (eventStep_moves next).schedule
        rw [drive_of_step n goes step]
        rw [scheduled] at noConfig fuel
        refine ih m (blockStep_keeps_inv s m inv step) (fun e' listed => ?_) ?_
        · exact noConfig e' (List.mem_cons_of_mem _ (left ▸ listed))
        · rw [left]
          rw [List.length_cons] at fuel
          omega

theorem driveAll_settles {s : State} (inv : BlockInv s) (noConfig : ∀ e ∈ s.schedule, isConfig e = false) :
    ∃ t, driveAll going s = .next t ∧ BlockInv t ∧ Settled going t :=
  drive_settles inTransaction _ s inv noConfig (by rw [driveFuel]; omega)

end

theorem emitting_ne_idle (x : Txn) (u : State) (_ : BlockInv u) (goes : emitting x u = true) : u.ph ≠ .idle := by
  rw [((emitting_iff x u).mp goes).1]
  decide

theorem runningLine_ne_idle (row : BitVec 16) (u : State) (_ : BlockInv u) (goes : runningLine row u = true) :
    u.ph ≠ .idle :=
  inLine_ne_idle ((runningLine_iff row u).mp goes).1

theorem runningFrame_ne_idle (u : State) (inv : BlockInv u) (goes : runningFrame u = true) : u.ph ≠ .idle := fun idle =>
  absurd ((inv.idle.mpr idle).symm.trans ((runningFrame_iff u).mp goes)) (by decide)

/-- Settles O48: each composite at hand is a run of the block that does not go on at an idle block. -/
theorem compositesCompleteOrStall : Obligations.CompositesCompleteOrStall := by
  intro s inv noConfig
  refine ⟨fun w h f command frame fields => ?newframe, fun command isDebug => ?debugText, fun line buffered => ?lineBuf,
    fun line direct => ?lineDir, fun place => ?frame⟩
  case newframe =>
    have runs : exec (.cmdNewframe w h f) s = driveAll (emitting .frame) s :=
      if_pos ⟨(emitting_iff _ _).mpr ⟨command, frame⟩, fields⟩
    rw [runs]
    exact driveAll_settles (emitting_ne_idle .frame) inv noConfig
  case debugText =>
    obtain ⟨legal, text, _⟩ := inv.debugIndex isDebug
    rw [exec_cmdDebug_of_emitting command isDebug (text ▸ legal)]
    exact driveAll_settles (emitting_ne_idle .debug) inv noConfig
  case lineBuf =>
    rw [exec_lineBuf_of_running line (inv.frame_of_line line) buffered]
    exact driveAll_settles (runningLine_ne_idle s.row) inv noConfig
  case lineDir =>
    rw [exec_lineDir_of_running line (inv.frame_of_line line) direct]
    exact driveAll_settles (runningLine_ne_idle s.row) inv noConfig
  case frame =>
    by_cases idle : s.ph = .idle
    · rw [exec_frame_of_idle idle]
      have accepted : BlockInv s.acceptFrame :=
        .of_frame_command inv.port inv.lbForm inv.lbRange rfl rfl (Nat.zero_le 6)
      exact driveAll_settles runningFrame_ne_idle accepted noConfig
    · have frame := place.resolve_left idle
      have arm : exec .frame s = execFrame s := rfl
      rw [arm, execFrame, if_neg idle, if_pos frame]
      exact driveAll_settles runningFrame_ne_idle inv noConfig

end Sys2Proof.Machine
end

section
/-! A trigger that fires inside a transaction commutes with any other event of it (R169 b): no step of a running
transaction reads TPEND or the events after it. -/

namespace Sys2Proof.Machine

open Sys2Proof

/-! ## A pending trigger beside a step -/

/-- The state with the trigger pending and these events after the step. -/
def State.pending (s : State) (later : List Event) : State := { s with tpend := true, schedule := later }

/-- An outcome with its next state changed. -/
def mapNext (f : State → State) : StepResult → StepResult
  | .next s => .next (f s)
  | .fault r => .fault r
  | .refused r => .refused r

theorem mapNext_of_next {f : State → State} {o : StepResult} {t : State} (next : o = .next t) :
    mapNext f o = .next (f t) := by
  rw [next]
  rfl

/-- The operation neither reads nor writes TPEND and the schedule. -/
def IgnoresTrigger (op : State → StepResult) : Prop :=
  ∀ (s : State) (later : List Event), op (s.pending later) = mapNext (·.pending later) (op s)

theorem IgnoresTrigger.andThen {first later : State → StepResult} (hfirst : IgnoresTrigger first)
    (hlater : IgnoresTrigger later) : IgnoresTrigger (fun s => andThen (first s) later) := by
  intro s es
  show Machine.andThen (first (s.pending es)) later = mapNext _ (Machine.andThen (first s) later)
  rw [hfirst s es]
  cases first s with
  | next m => exact hlater m es
  | fault f => rfl
  | refused r => rfl

theorem readLb_pending (s : State) (later : List Event) (i : Nat) (k k' : Byte → StepResult)
    (continues : ∀ b, k' b = mapNext (·.pending later) (k b)) :
    readLb (s.pending later) i k' = mapNext (·.pending later) (readLb s i k) := by
  have same : readLb (s.pending later) i k' = readLb s i k' := rfl
  rw [same, readLb, readLb]
  split
  case isTrue => rfl
  case isFalse =>
    split
    case isTrue => rfl
    case isFalse =>
      split
      case h_1 b _ => exact continues b
      case h_2 => rfl

/-! ## The operations of a transaction -/

theorem endHeader_pending (s : State) (later : List Event) :
    (s.pending later).endHeader = s.endHeader.pending later := by
  by_cases empty : s.cfg.height = 0
  · rw [endHeader_empty empty, endHeader_empty (s := s.pending later) empty]
    rfl
  · rw [endHeader_lines empty, endHeader_lines (s := s.pending later) empty]
    rfl

theorem endLine_pending (s : State) (later : List Event) : (s.pending later).endLine = s.endLine.pending later := by
  by_cases last : s.row + 1 = s.cfg.height
  · rw [endLine_last last, endLine_last (s := s.pending later) last]
    rfl
  · rw [endLine_next last, endLine_next (s := s.pending later) last]
    rfl

theorem endCommand_pending (s : State) (later : List Event) :
    (s.pending later).endCommand = s.endCommand.pending later := by
  have same : (s.pending later).txn = s.txn := rfl
  rw [State.endCommand, State.endCommand, same]
  cases s.txn
  case none => rfl
  case frame => exact endHeader_pending s later
  case debug => rfl

theorem emitByte_pending (s : State) (b : Byte) (later : List Event) :
    (s.pending later).emitByte b = (s.emitByte b).pending later := by
  obtain ⟨u, sent, emits⟩ := emitByte_eq s b
  obtain ⟨v, sent', emits'⟩ := emitByte_eq (s.pending later) b
  have same : v = u.pending later := by rw [sent, sent']; rfl
  rw [emits, emits', same]
  by_cases last : s.cidx.toNat = lastIndex s
  · rw [if_pos last, if_pos (show (s.pending later).cidx.toNat = lastIndex (s.pending later) from last)]
    exact endCommand_pending u later
  · rw [if_neg last, if_neg (show ¬ (s.pending later).cidx.toNat = lastIndex (s.pending later) from last)]
    rfl

theorem cmdByte_ignoresTrigger : IgnoresTrigger execCmdByte := by
  intro s later
  have byte : commandByte (s.pending later) (s.pending later).cidx.toNat = commandByte s s.cidx.toNat := rfl
  rw [execCmdByte, execCmdByte, apply_ite (mapNext _), byte]
  cases commandByte s s.cidx.toNat with
  | ok b => simp only [emitByte_pending]; rfl
  | error f => rfl

theorem dirSend_ignoresTrigger : IgnoresTrigger execDirSend := by
  intro s later
  rw [execDirSend, execDirSend, apply_ite (mapNext _)]
  rfl

theorem lineEnd_ignoresTrigger : IgnoresTrigger execLineEnd := by
  intro s later
  rw [execLineEnd, execLineEnd, apply_ite (mapNext _), endLine_pending]
  rfl

theorem drainFormat_ignoresTrigger : IgnoresTrigger execDrainFormat := by
  intro s later
  rw [execDrainFormat, execDrainFormat, apply_ite (mapNext _)]
  exact if_congr Iff.rfl (readLb_pending s later _ _ _ fun _ => rfl) rfl

theorem drainSend_ignoresTrigger : IgnoresTrigger execDrainSend := by
  intro s later
  rw [execDrainSend, execDrainSend, apply_ite (mapNext _)]
  exact if_congr Iff.rfl (readLb_pending s later _ _ _ fun _ => rfl) rfl

theorem drain_ignoresTrigger : IgnoresTrigger drainStep := by
  intro s later
  have unit : drainUnit (s.pending later) = drainUnit s := rfl
  rw [drainStep, drainStep, unit]
  cases drainUnit s
  case lineEnd => exact lineEnd_ignoresTrigger s later
  case format => exact drainFormat_ignoresTrigger s later
  case send => exact drainSend_ignoresTrigger s later
  case hold => rfl

theorem edgeCapture_ignoresTrigger (r : Byte) : IgnoresTrigger (execEdgeCapture r) := by
  intro s later
  rw [execEdgeCapture, execEdgeCapture, apply_ite (mapNext _), apply_ite (mapNext _)]
  rfl

theorem edgeFormat_ignoresTrigger : IgnoresTrigger execEdgeFormat := by
  intro s later
  rw [execEdgeFormat, execEdgeFormat, apply_ite (mapNext _)]
  exact if_congr Iff.rfl (readLb_pending s later _ _ _ fun _ => rfl) rfl

theorem edgeSend_ignoresTrigger : IgnoresTrigger execEdgeSend := by
  intro s later
  rw [execEdgeSend, execEdgeSend, apply_ite (mapNext _)]
  exact if_congr Iff.rfl (readLb_pending s later _ _ _ fun _ => rfl) rfl

theorem edgeEnd_ignoresTrigger : IgnoresTrigger execEdgeEnd := by
  intro s later
  rw [execEdgeEnd, execEdgeEnd, apply_ite (mapNext _)]
  rfl

theorem work_ignoresTrigger : IgnoresTrigger workStep := by
  intro s later
  have unit : workUnit (s.pending later) = workUnit s := rfl
  rw [workStep, workStep, unit]
  cases workUnit s
  case format => exact edgeFormat_ignoresTrigger s later
  case send => exact edgeSend_ignoresTrigger s later
  case skip => rfl

theorem edge_ignoresTrigger (r : Byte) : IgnoresTrigger (edgeStep r) := by
  intro s later
  by_cases window : s.ph = .lAct
  case neg =>
    rw [edgeStep_of_ne_lAct r window, edgeStep_of_ne_lAct r (s := s.pending later) window]
    rfl
  case pos =>
    cases strat : s.cfg.strat with
    | buf =>
      rw [edgeStep_of_buffered window strat, edgeStep_of_buffered (s := s.pending later) window strat]
      exact ((edgeCapture_ignoresTrigger r).andThen work_ignoresTrigger).andThen edgeEnd_ignoresTrigger s later
    | dir =>
      rw [edgeStep_of_direct window strat, edgeStep_of_direct (s := s.pending later) window strat,
        execDirRead_of_window r window strat, execDirRead_of_window r (s := s.pending later) window strat]
      rfl

theorem pad_ignoresTrigger : IgnoresTrigger padStep := by
  intro s later
  have phase : (s.pending later).ph = s.ph := rfl
  rw [padStep, padStep, phase]
  cases s.ph
  case lPre =>
    show execPadPre (s.pending later) = mapNext (·.pending later) (execPadPre s)
    rw [execPadPre, execPadPre, apply_ite (mapNext _)]
    rfl
  case lPost =>
    show execPadPost (s.pending later) = mapNext (·.pending later) (execPadPost s)
    rw [execPadPost, execPadPost, apply_ite (mapNext _)]
    rfl
  all_goals rfl

theorem linkDone_ignoresTrigger : IgnoresTrigger execLinkDone := by
  intro s later
  rw [execLinkDone_eq, execLinkDone_eq]
  rfl

/-- Inside a transaction SEQ's step reads neither (R169 b). -/
theorem seq_pending {s : State} (later : List Event) (busy : s.ph ≠ .idle) :
    seqStep (s.pending later) = mapNext (·.pending later) (seqStep s) := by
  have phase : (s.pending later).ph = s.ph := rfl
  rw [seqStep, seqStep, phase]
  cases here : s.ph
  case idle => exact absurd here busy
  case cmd => exact cmdByte_ignoresTrigger s later
  case lTx => exact dirSend_ignoresTrigger s later
  case lDrain => exact drain_ignoresTrigger s later
  all_goals rfl

/-- Inside a transaction an event but the reset does the same beside a pending trigger. -/
theorem eventStep_pending {e : Event} {s t : State} (later : List Event) (busy : s.ph ≠ .idle) (noReset : e ≠ .reset)
    (next : eventStep e s = .next t) : eventStep e (s.pending later) = .next (t.pending later) := by
  rw [← mapNext_of_next (f := (·.pending later)) next]
  cases e with
  | seq => exact seq_pending later busy
  | edge r => exact edge_ignoresTrigger r s later
  | padDone => exact pad_ignoresTrigger s later
  | linkDone => exact linkDone_ignoresTrigger s later
  | reqFrame =>
    have presents (u : State) (same : u.ph = s.ph) : eventStep .reqFrame u = .next u.presentFrame :=
      execReqFrame_of_gated (.inl (same ▸ busy))
    rw [presents s rfl, presents (s.pending later) rfl]
    rfl
  | reqDebug text =>
    have presents (u : State) (same : u.ph = s.ph) : eventStep (.reqDebug text) u = .next (u.presentDebug text) :=
      execReqDebug_of_gated (fun idle => absurd (same ▸ idle) busy) (.inl (same ▸ busy))
    rw [presents s rfl, presents (s.pending later) rfl]
    rfl
  | tick => rfl
  | reset => exact absurd rfl noReset
  | config c =>
    simp only [eventStep, configStep, if_neg busy] at next
    cases next

/-! ## Two steps -/

theorem run_succ_next_iff (M : Host.Core) (k : Nat) (s t : M.State) :
    M.run (k + 1) s = .next t ↔ ∃ m, M.step s = .next m ∧ M.run k m = .next t := by
  cases first : M.step s <;> simp [Host.Core.run, first]

theorem run_two_next_iff (s t : State) :
    Sys2Proof.core.run 2 s = .next t ↔ ∃ m, step s = .next m ∧ step m = .next t := by
  refine (run_succ_next_iff Sys2Proof.core 1 s t).trans (exists_congr fun m => and_congr_right fun _ => ?_)
  refine (run_succ_next_iff Sys2Proof.core 0 m t).trans ⟨?_, fun second => ⟨t, second, rfl⟩⟩
  rintro ⟨last, second, stop⟩
  cases stop
  exact second

theorem Moves.op {e : Event} {u t : State} (moves : Moves e u t) : t.op = u.op := by
  cases moves with
  | env moves => rw [moves.frame]
  | accept _ _ accepts => cases accepts <;> rfl
  | byte b => rw [emitByte_frame]
  | line moves => rw [moves.frame]
  | reset => rfl

/-- Settles O46: the other event, taken beside the trigger that has already fired. -/
theorem tickCommutes : Obligations.TickCommutes := by
  intro s e rest t port busy noReset runs
  have notReset : e ≠ .reset := fun reset => by simp [reset, isReset] at noReset
  obtain ⟨m, first, second⟩ := (run_two_next_iff _ t).mp runs
  have event : eventStep e (s.taking (.tick :: rest)) = .next m :=
    (step_of_event (s := { s with schedule := e :: .tick :: rest }) port rfl).symm.trans first
  have moves := eventStep_moves event
  have tick : step m = .next { m.taking rest with tpend := true } := step_of_event (moves.op.trans port) moves.schedule
  cases second.symm.trans tick
  have tickFirst : step { s with schedule := .tick :: e :: rest } = .next { s.taking (e :: rest) with tpend := true } :=
    step_of_event (s := { s with schedule := .tick :: e :: rest }) port rfl
  have beside : eventStep e ((s.taking (.tick :: rest)).pending rest) = .next (m.pending rest) :=
    eventStep_pending rest busy notReset event
  have eventLater : step { s.taking (e :: rest) with tpend := true } = .next (m.pending rest) :=
    (step_of_event (s := { s.taking (e :: rest) with tpend := true }) port rfl).trans beside
  exact ⟨m.pending rest, (run_two_next_iff _ _).mpr ⟨_, tickFirst, eventLater⟩, rfl⟩

end Sys2Proof.Machine
end
